-- ==== Sys2Proof/Word.lean ====
section
/-! DEFINITION. The word types of the block (spec 00_scope.md section 5: `uN` is an unsigned N-bit integer, modular at
its stated width, rule R7). -/

namespace Sys2Proof

/-- `u8`: a byte of a frame, of an operation word or of the NVM. -/
abbrev Byte := BitVec 8

/-- `u16`: a frame value, an event code, a ring counter, a status word; also the carrier of the `i16` temperature. -/
abbrev Half := BitVec 16

/-- `u32`: a millisecond time, a sequence number, a raw thermal sample. -/
abbrev Word := BitVec 32

end Sys2Proof
end

