-- ==== Sys2Proof/Config.lean ====
section
/-! DEFINITION. The configuration record of rule R6 (spec 00_scope.md section 4), its default, and the free values
that the environment picks (rule R10) where no answer of its own stands in the state. -/

namespace Sys2Proof

/-- The role of one link (rule R46): which READ length its parser expects (rule R122). -/
inductive Role where
  | master
  | slave
  deriving DecidableEq, Repr

/-- One log request `(code, flags, msg)` (rules R45, R212). -/
structure LogRequest where
  code  : Half
  flags : Half
  msg   : List Byte
  deriving DecidableEq, Repr

/-- The parameters of rule R6: fixed at configuration time, never written while the block runs. Counts the spec
derives (RECORD_SIZE, RPS, CAPACITY, NIN, N_LINK) are functions of these. -/
structure Config where
  /-- TICK_MS (timing only). -/
  tickMs              : Nat
  /-- DEBOUNCE_N, samples. -/
  debounceN           : Nat
  /-- READY_MS. -/
  readyMs             : Nat
  /-- ARM_MS. -/
  armMs               : Nat
  /-- SETTLE_MS. -/
  settleMs            : Nat
  /-- BTN_DEBOUNCE_MS. -/
  btnDebounceMs       : Nat
  /-- THERMAL_PERIOD_MS (timing only). -/
  thermalPeriodMs     : Nat
  /-- POLL_FALLBACK_MS (timing only). -/
  pollFallbackMs      : Nat
  /-- T_HIGH_TRIP, signed quarter-degrees. -/
  tHighTrip           : Int
  /-- T_LOW_TRIP. -/
  tLowTrip            : Int
  /-- T_HIGH_CLEAR. -/
  tHighClear          : Int
  /-- T_LOW_CLEAR. -/
  tLowClear           : Int
  /-- FRAME_START. -/
  frameStart          : Byte
  /-- FRAME_END. -/
  frameEnd            : Byte
  /-- CMD_READ. -/
  cmdRead             : Byte
  /-- CMD_WRITE. -/
  cmdWrite            : Byte
  /-- CMD_ACK. -/
  cmdAck              : Byte
  /-- FP_BUF_LEN. -/
  fpBufLen            : Nat
  /-- COMMIT_VAL. -/
  commitVal           : Byte
  /-- ERASED. -/
  erased              : Byte
  /-- SECTOR_SIZE. -/
  sectorSize          : Nat
  /-- MSG_LEN. -/
  msgLen              : Nat
  /-- LOG_SECTORS. -/
  logSectors          : Nat
  /-- LOG_BASE. -/
  logBase             : Nat
  /-- RB_N. -/
  rbN                 : Nat
  /-- N_CONTACT. -/
  nContact            : Nat
  /-- N_LATCH_ERR. -/
  nLatchErr           : Nat
  /-- N_REMOTE. -/
  nRemote             : Nat
  /-- N_LATCH. -/
  nLatch              : Nat
  /-- ROLE of each link; its length is N_LINK. -/
  roles               : List Role
  /-- LOGQ_DEPTH. -/
  logqDepth           : Nat
  /-- TX_TIMEOUT_MS: open and without a default, timing only. -/
  txTimeoutMs         : Option Nat
  /-- LOG_EVT[LATCH]. -/
  logLatch            : LogRequest
  /-- LOG_EVT[POWER]. -/
  logPower            : LogRequest
  /-- LOG_EVT[THERMAL]. -/
  logThermal          : LogRequest
  /-- R1_DISARM_ON_ANY. -/
  r1DisarmOnAny       : Bool
  /-- R2_FORCE_ON_EDGE_ONLY. -/
  r2ForceOnEdgeOnly   : Bool
  /-- THERMAL_GATED_BY_READY. -/
  thermalGatedByReady : Bool
  /-- VAR id PORTA. -/
  varPortA            : Byte
  /-- VAR id PORTB. -/
  varPortB            : Byte
  /-- VAR id PORTC. -/
  varPortC            : Byte
  /-- VAR id STATUS_DEBUG. -/
  varStatusDebug      : Byte
  /-- VAR id STATUS_PLC. -/
  varStatusPlc        : Byte
  /-- VAR id STATUS_ACTIVE. -/
  varStatusActive     : Byte
  /-- VAR id STATUS_DEBUG_TRU. -/
  varStatusDebugTru   : Byte
  deriving DecidableEq, Repr

/-- NIN, the number of monitored inputs (rule R6, derived from rule R21). -/
def Config.nin (c : Config) : Nat := 9 + 2 * c.nContact + c.nLatchErr + c.nRemote

/-- N_LINK, the number of LinkDriver instances (rule R6). -/
def Config.nLink (c : Config) : Nat := c.roles.length

/-- The bytes a `raw` operand takes, ceil(NIN/8) (rule R140). -/
def Config.rawLen (c : Config) : Nat := (c.nin + 7) / 8

/-- The defaults of rule R6; where rule R6 leaves a parameter OPEN without a default, the value the vectors of spec
95_test_vectors.md use (LOG_BASE 0, LOG_SECTORS 2, RB_N 8, one link, in the role of program P2).
DESIGN CHOICE (log entry 2). -/
def Config.default : Config where
  tickMs              := 10
  debounceN           := 3
  readyMs             := 3000
  armMs               := 1000
  settleMs            := 50
  btnDebounceMs       := 50
  thermalPeriodMs     := 5000
  pollFallbackMs      := 20
  tHighTrip           := 240
  tLowTrip            := 40
  tHighClear          := 232
  tLowClear           := 48
  frameStart          := 0xAA
  frameEnd            := 0x55
  cmdRead             := 0x01
  cmdWrite            := 0x02
  cmdAck              := 0x06
  fpBufLen            := 8
  commitVal           := 0x7E
  erased              := 0xFF
  sectorSize          := 4096
  msgLen              := 20
  logSectors          := 2
  logBase             := 0
  rbN                 := 8
  nContact            := 2
  nLatchErr           := 2
  nRemote             := 1
  nLatch              := 2
  roles               := [.slave]
  logqDepth           := 16
  txTimeoutMs         := none
  logLatch            := ⟨0x0003, 0x0000, [0x4C, 0x41, 0x54, 0x43, 0x48, 0x20, 0x45, 0x52, 0x52, 0x4F, 0x52]⟩
  logPower            := ⟨0x0004, 0x0000, [0x50, 0x4F, 0x57, 0x45, 0x52, 0x20, 0x46, 0x41, 0x49, 0x4C]⟩
  logThermal          := ⟨0x0005, 0x0000, [0x54, 0x48, 0x45, 0x52, 0x4D, 0x41, 0x4C, 0x20, 0x54, 0x52, 0x49, 0x50]⟩
  r1DisarmOnAny       := true
  r2ForceOnEdgeOnly   := false
  thermalGatedByReady := false
  varPortA            := 1
  varPortB            := 2
  varPortC            := 3
  varStatusDebug      := 4
  varStatusPlc        := 5
  varStatusActive     := 6
  varStatusDebugTru   := 7

/-! The free values: each is applied to the number of the draw (`Draws.count` of the state), so that two draws need
not agree. Nothing in Lean can say what they are (rule R10, log entry 3). -/

/-- Whether NVM transaction number `n` returns OK, where the environment's list of answers holds none (R86, U8). -/
opaque Config.freeNvmOk : Nat → Bool

/-- Whether UART transmission number `n` returns OK, where the list of answers holds none (R321, U13). -/
opaque Config.freeTxOk : Nat → Bool

/-- At which cut of an FL_APPEND the supply fails (0: at none), where the list of answers holds none (R346, U12). -/
opaque Config.freeCut : Nat → BitVec 2

/-- The bits of a status word that the spec does not list (R372, U3). -/
opaque Config.freeStatusBits : Nat → Half

/-- The temperature byte before the first THERMAL_SAMPLE (R375, U4). -/
opaque Config.freeTempByte : Nat → Byte

/-- The value of physical latch `j` after reset number `n` (R64, U6). -/
opaque Config.freeLatch : Nat → Nat → Bool

/-- Byte `j` of what a failed erase leaves, or the mask of the bits a failed program leaves unchanged in its byte `j`
(R84, R85, U10). -/
opaque Config.freeNvmByte : Nat → Nat → Byte

end Sys2Proof
end

