-- ==== Sys2Proof/Syntax.lean ====
section
/-! DEFINITION. The syntax: one constructor of `Instr` for each row of spec/opcode_table.json (26 operations of the
command port, rule R140; four UART frames, rule R120; the record layout, rule R130), the ports an input arrives at,
and the reasons a decoder rejects. -/

namespace Sys2Proof

/-- The instructions. `link` is the u8 instance number of the link (rule R140); for a frame it is the UART the frame
arrives at, which is no bit of the frame. `raw` is the packed sample of every input, input id `i` at bit `i mod 8`
of byte `i div 8` (rule R140). -/
inductive Instr where
  /-- FRAME_READ_REQ: the frame `AA 01 var 55`. -/
  | frameReadReq (link var : Byte)
  /-- FRAME_READ_REPLY: the frame `AA 01 var lsb msb 55`. -/
  | frameReadReply (link var : Byte) (value : Half)
  /-- FRAME_WRITE: the frame `AA 02 var lsb msb 55`. -/
  | frameWrite (link var : Byte) (value : Half)
  /-- FRAME_ACK: the frame `AA 06 var lsb msb 55`. -/
  | frameAck (link var : Byte) (value : Half)
  /-- LOG_RECORD: the 33-byte NVM record. -/
  | logRecord (seq ms : Word) (code flags : Half) (msg : List Byte) (commit : Byte)
  | coldReset
  | scanStart (raw : List Byte) (now : Word)
  | scanTick (raw : List Byte) (now : Word)
  | thermalSample (temp : Half) (fl : Byte) (raw32 : Word)
  | setBypass (v : Bool)
  | btnEdge (now : Word)
  | reqReset
  | reqForce
  | doReset
  | doForce
  | rbPut (link b : Byte)
  | rbGet (link : Byte)
  | rbWrite (link : Byte) (bytes : List Byte)
  | fpFeed (link b : Byte)
  | ldRxByte (link b : Byte)
  | ldPoll (link : Byte)
  | ldWriteU16 (link var : Byte) (value : Half)
  | ldReadU16 (link var : Byte)
  | ldSend (link cmd var : Byte) (hasValue : Bool) (value : Half)
  | flInit
  | flAppend (code flags : Half) (msg : List Byte) (now : Word)
  | flReadLastN (n maxOut : Half)
  | flCountValid
  | logWrite (now : Word)
  | swRead (var : Byte)
  | powerLoss
  deriving DecidableEq, Repr

/-- Where an input reaches the block: the command port of rule R140, the UART of one link, or the NVM from outside
the block (what rule R87 excludes). -/
inductive Port where
  | command
  | uart (link : Byte)
  | nvm
  deriving DecidableEq, Repr

/-- One input of the environment (rule R2): an operation word, the bytes of one frame, or a record image. -/
structure Input where
  port  : Port
  bytes : List Byte
  deriving DecidableEq, Repr

/-- Why the decoder rejects an input (rules R142, R128; U17). Safe: such an input is no operation of the block. -/
inductive DecodeError where
  /-- An operation word without an opcode byte. -/
  | emptyWord
  /-- An opcode byte that rule R140 does not list. -/
  | unknownOpcode (op : Byte)
  /-- The operands do not fit the operand list: wrong length, `v` or `has_value` not 0 or 1. -/
  | badOperands (op : Byte)
  /-- `link` is not below N_LINK. -/
  | noSuchLink (link : Byte)
  /-- The bytes at a UART are none of the frames of rule R120. -/
  | notAFrame
  /-- The bytes at the NVM do not have the length of a record (rule R130). -/
  | notARecord
  deriving DecidableEq, Repr

end Sys2Proof
end

