-- ==== Sys2Proof/WellFormed.lean ====
section
/-! DEFINITION. Which configurations are admitted (the ranges of rule R6) and which instructions are well formed
under one (the operand list of rule R140). Both are Bools, so that decide runs on them. -/

namespace Sys2Proof

/-- RECORD_SIZE = 4+4+2+2+MSG_LEN+1 (rule R6, derived from rule R130). -/
def Config.recordSize (c : Config) : Nat := 13 + c.msgLen

/-- The ranges rule R6 gives the parameters: DEBOUNCE_N at least 1 (a count of samples), RB_N a power of two at most
32768, at least one latch-error line, one latch, one queue place and one sector, LOG_BASE a multiple of SECTOR_SIZE,
a record that fits a sector, command codes that differ (R121), a commit marker that is not the erased byte (R90),
link numbers that fit their byte (R140), and status words under different ids (R135). -/
def Config.wf (c : Config) : Bool :=
  decide (1 ≤ c.debounceN)
    && (List.range 16).any (fun k => c.rbN == 2 ^ k)
    && decide (1 ≤ c.nLatchErr) && decide (1 ≤ c.nLatch) && decide (1 ≤ c.logqDepth)
    && decide (1 ≤ c.logSectors) && decide (1 ≤ c.sectorSize) && c.logBase % c.sectorSize == 0
    && decide (c.recordSize ≤ c.sectorSize)
    && c.cmdRead != c.cmdWrite && c.cmdRead != c.cmdAck && c.cmdWrite != c.cmdAck
    && c.commitVal != c.erased
    && decide (c.nLink ≤ 256)
    && c.varStatusDebug != c.varStatusActive

/-- `link < N_LINK` (rule R140). -/
def Config.hasLink (c : Config) (link : Byte) : Bool := decide (link.toNat < c.nLink)

/-- Well formed: the operands fit the operand list of rule R140 under configuration `c`: the link exists, a raw
sample has ceil(NIN/8) bytes, a byte string has a length that fits its u8, a record's text has MSG_LEN bytes. -/
def Instr.wellFormed (c : Config) : Instr → Bool
  | .frameReadReq link _ => c.hasLink link
  | .frameReadReply link _ _ => c.hasLink link
  | .frameWrite link _ _ => c.hasLink link
  | .frameAck link _ _ => c.hasLink link
  | .logRecord _ _ _ _ msg _ => msg.length == c.msgLen
  | .coldReset => true
  | .scanStart raw _ => raw.length == c.rawLen
  | .scanTick raw _ => raw.length == c.rawLen
  | .thermalSample _ _ _ => true
  | .setBypass _ => true
  | .btnEdge _ => true
  | .reqReset => true
  | .reqForce => true
  | .doReset => true
  | .doForce => true
  | .rbPut link _ => c.hasLink link
  | .rbGet link => c.hasLink link
  | .rbWrite link bytes => c.hasLink link && decide (bytes.length ≤ 255)
  | .fpFeed link _ => c.hasLink link
  | .ldRxByte link _ => c.hasLink link
  | .ldPoll link => c.hasLink link
  | .ldWriteU16 link _ _ => c.hasLink link
  | .ldReadU16 link _ => c.hasLink link
  | .ldSend link _ _ _ _ => c.hasLink link
  | .flInit => true
  | .flAppend _ _ msg _ => decide (msg.length ≤ 255)
  | .flReadLastN _ _ => true
  | .flCountValid => true
  | .logWrite _ => true
  | .swRead _ => true
  | .powerLoss => true

end Sys2Proof
end

