-- ==== Sys2Proof/Decode.lean ====
section
/-! DEFINITION. The decoder, total on any bytes and rejecting by name, and after it the encoder: the operation words
of rule R140, the frames of rule R120, the record of rule R130. Every multi-byte operand is little-endian. -/

namespace Sys2Proof

/-! Byte order (spec 00_scope.md section 5; rules R94, R95). -/

/-- `u16le(b0, b1) = b0 + 256·b1`. -/
def u16le (b0 b1 : Byte) : Half := b1 ++ b0

/-- `u32le(b0, b1, b2, b3)`, least significant byte first. -/
def u32le (b0 b1 b2 b3 : Byte) : Word := b3 ++ b2 ++ b1 ++ b0

/-- `le16(v)`: the 2 bytes of `v`, least significant first. -/
def le16 (v : Half) : List Byte := [v.extractLsb' 0 8, v.extractLsb' 8 8]

/-- `le32(v)`: the 4 bytes of `v`, least significant first. -/
def le32 (v : Word) : List Byte :=
  [v.extractLsb' 0 8, v.extractLsb' 8 8, v.extractLsb' 16 8, v.extractLsb' 24 8]

/-! Taking operands off the front of a word. -/

def takeU8 : List Byte → Option (Byte × List Byte)
  | b :: bs => some (b, bs)
  | [] => none

/-- A u8 that must be 0 or 1 (rule R142: `v`, `has_value`). -/
def takeBit : List Byte → Option (Bool × List Byte)
  | b :: bs => if b = 0 then some (false, bs) else if b = 1 then some (true, bs) else none
  | [] => none

def takeU16 : List Byte → Option (Half × List Byte)
  | b0 :: b1 :: bs => some (u16le b0 b1, bs)
  | _ => none

def takeU32 : List Byte → Option (Word × List Byte)
  | b0 :: b1 :: b2 :: b3 :: bs => some (u32le b0 b1 b2 b3, bs)
  | _ => none

/-- Exactly `n` bytes. -/
def takeBytes (n : Nat) (bs : List Byte) : Option (List Byte × List Byte) :=
  if n ≤ bs.length then some (bs.take n, bs.drop n) else none

/-- A byte string preceded by its u8 length (rule R140). -/
def takeString (bs : List Byte) : Option (List Byte × List Byte) := do
  let (n, bs) ← takeU8 bs
  takeBytes n.toNat bs

/-- Operands that do not parse are rejected under the opcode's name. -/
def needOperands (op : Byte) : Option (Instr × List Byte) → Except DecodeError (Instr × List Byte)
  | some r => .ok r
  | none => .error (.badOperands op)

/-- The first operation of a byte string and the bytes after it (the table of rule R140). -/
def decodePrefix (c : Config) : List Byte → Except DecodeError (Instr × List Byte)
  | [] => .error .emptyWord
  | op :: bs =>
    match op.toNat with
    | 0x00 => .ok (.coldReset, bs)
    | 0x01 => needOperands op do
        let (raw, bs) ← takeBytes c.rawLen bs
        let (now, bs) ← takeU32 bs
        return (.scanStart raw now, bs)
    | 0x02 => needOperands op do
        let (raw, bs) ← takeBytes c.rawLen bs
        let (now, bs) ← takeU32 bs
        return (.scanTick raw now, bs)
    | 0x03 => needOperands op do
        let (temp, bs) ← takeU16 bs
        let (fl, bs) ← takeU8 bs
        let (raw32, bs) ← takeU32 bs
        return (.thermalSample temp fl raw32, bs)
    | 0x04 => needOperands op do
        let (v, bs) ← takeBit bs
        return (.setBypass v, bs)
    | 0x05 => needOperands op do
        let (now, bs) ← takeU32 bs
        return (.btnEdge now, bs)
    | 0x06 => .ok (.reqReset, bs)
    | 0x07 => .ok (.reqForce, bs)
    | 0x08 => .ok (.doReset, bs)
    | 0x09 => .ok (.doForce, bs)
    | 0x10 => needOperands op do
        let (link, bs) ← takeU8 bs
        let (b, bs) ← takeU8 bs
        return (.rbPut link b, bs)
    | 0x11 => needOperands op do
        let (link, bs) ← takeU8 bs
        return (.rbGet link, bs)
    | 0x12 => needOperands op do
        let (link, bs) ← takeU8 bs
        let (bytes, bs) ← takeString bs
        return (.rbWrite link bytes, bs)
    | 0x18 => needOperands op do
        let (link, bs) ← takeU8 bs
        let (b, bs) ← takeU8 bs
        return (.fpFeed link b, bs)
    | 0x20 => needOperands op do
        let (link, bs) ← takeU8 bs
        let (b, bs) ← takeU8 bs
        return (.ldRxByte link b, bs)
    | 0x21 => needOperands op do
        let (link, bs) ← takeU8 bs
        return (.ldPoll link, bs)
    | 0x22 => needOperands op do
        let (link, bs) ← takeU8 bs
        let (var, bs) ← takeU8 bs
        let (value, bs) ← takeU16 bs
        return (.ldWriteU16 link var value, bs)
    | 0x23 => needOperands op do
        let (link, bs) ← takeU8 bs
        let (var, bs) ← takeU8 bs
        return (.ldReadU16 link var, bs)
    | 0x24 => needOperands op do
        let (link, bs) ← takeU8 bs
        let (cmd, bs) ← takeU8 bs
        let (var, bs) ← takeU8 bs
        let (hasValue, bs) ← takeBit bs
        let (value, bs) ← takeU16 bs
        return (.ldSend link cmd var hasValue value, bs)
    | 0x30 => .ok (.flInit, bs)
    | 0x31 => needOperands op do
        let (code, bs) ← takeU16 bs
        let (flags, bs) ← takeU16 bs
        let (msg, bs) ← takeString bs
        let (now, bs) ← takeU32 bs
        return (.flAppend code flags msg now, bs)
    | 0x32 => needOperands op do
        let (n, bs) ← takeU16 bs
        let (maxOut, bs) ← takeU16 bs
        return (.flReadLastN n maxOut, bs)
    | 0x33 => .ok (.flCountValid, bs)
    | 0x34 => needOperands op do
        let (now, bs) ← takeU32 bs
        return (.logWrite now, bs)
    | 0x40 => needOperands op do
        let (var, bs) ← takeU8 bs
        return (.swRead var, bs)
    | 0x7F => .ok (.powerLoss, bs)
    | _ => .error (.unknownOpcode op)

/-- The link an operation word names, if it names one. -/
def Instr.link? : Instr → Option Byte
  | .rbPut link _ => some link
  | .rbGet link => some link
  | .rbWrite link _ => some link
  | .fpFeed link _ => some link
  | .ldRxByte link _ => some link
  | .ldPoll link => some link
  | .ldWriteU16 link _ _ => some link
  | .ldReadU16 link _ => some link
  | .ldSend link _ _ _ _ => some link
  | .frameReadReq link _ => some link
  | .frameReadReply link _ _ => some link
  | .frameWrite link _ _ => some link
  | .frameAck link _ _ => some link
  | _ => none

/-- An operation that names a link outside 0 .. N_LINK−1 is refused (rule R142). -/
def checkLink (c : Config) (i : Instr) : Except DecodeError Instr :=
  match i.link? with
  | some link => if c.hasLink link then .ok i else .error (.noSuchLink link)
  | none => .ok i

/-- An operation word: one operation and nothing after it (rule R142: wrong length is refused). -/
def decodeCommand (c : Config) (bytes : List Byte) : Except DecodeError Instr :=
  match decodePrefix c bytes with
  | .error e => .error e
  | .ok (i, []) => checkLink c i
  | .ok (_, _ :: _) => .error (.badOperands (bytes.headD 0))

/-- The bytes of one frame at the UART of `link` (rule R120): the two formats F4 and F6. -/
def decodeFrame (c : Config) (link : Byte) : List Byte → Except DecodeError Instr
  | [b0, b1, v, b3] =>
    if b0 = c.frameStart ∧ b3 = c.frameEnd ∧ b1 = c.cmdRead then checkLink c (.frameReadReq link v)
    else .error .notAFrame
  | [b0, b1, v, l, h, b5] =>
    if b0 = c.frameStart ∧ b5 = c.frameEnd then
      if b1 = c.cmdRead then checkLink c (.frameReadReply link v (u16le l h))
      else if b1 = c.cmdWrite then checkLink c (.frameWrite link v (u16le l h))
      else if b1 = c.cmdAck then checkLink c (.frameAck link v (u16le l h))
      else .error .notAFrame
    else .error .notAFrame
  | _ => .error .notAFrame

/-- The RECORD_SIZE bytes of one record (rule R130). -/
def decodeRecord (c : Config) (bytes : List Byte) : Except DecodeError Instr :=
  match (do
    let (seq, bs) ← takeU32 bytes
    let (ms, bs) ← takeU32 bs
    let (code, bs) ← takeU16 bs
    let (flags, bs) ← takeU16 bs
    let (msg, bs) ← takeBytes c.msgLen bs
    let (commit, bs) ← takeU8 bs
    if bs = [] then some (Instr.logRecord seq ms code flags msg commit) else none : Option Instr) with
  | some i => .ok i
  | none => .error .notARecord

/-- Decode one input: the port says which encoding it is in. -/
def decodeInput (c : Config) (x : Input) : Except DecodeError Instr :=
  match x.port with
  | .command => decodeCommand c x.bytes
  | .uart link => decodeFrame c link x.bytes
  | .nvm => decodeRecord c x.bytes

/-! The encoder. -/

/-- A byte string preceded by its u8 length (rule R140). -/
def lenPrefixed (bytes : List Byte) : List Byte := BitVec.ofNat 8 bytes.length :: bytes

/-- A Bool operand as its u8. -/
def bitByte (v : Bool) : Byte := if v then 1 else 0

/-- The bytes of a frame (rule R126). -/
def frameBytes (c : Config) (cmd var : Byte) (value : Option Half) : List Byte :=
  [c.frameStart, cmd, var] ++ (value.map le16).getD [] ++ [c.frameEnd]

/-- The bytes of a well-formed instruction, from rules R140, R120 and R130. -/
def encodeBytes (c : Config) : Instr → List Byte
  | .frameReadReq _ var => frameBytes c c.cmdRead var none
  | .frameReadReply _ var value => frameBytes c c.cmdRead var (some value)
  | .frameWrite _ var value => frameBytes c c.cmdWrite var (some value)
  | .frameAck _ var value => frameBytes c c.cmdAck var (some value)
  | .logRecord seq ms code flags msg commit => le32 seq ++ le32 ms ++ le16 code ++ le16 flags ++ msg ++ [commit]
  | .coldReset => [0x00]
  | .scanStart raw now => [0x01] ++ raw ++ le32 now
  | .scanTick raw now => [0x02] ++ raw ++ le32 now
  | .thermalSample temp fl raw32 => [0x03] ++ le16 temp ++ [fl] ++ le32 raw32
  | .setBypass v => [0x04, bitByte v]
  | .btnEdge now => [0x05] ++ le32 now
  | .reqReset => [0x06]
  | .reqForce => [0x07]
  | .doReset => [0x08]
  | .doForce => [0x09]
  | .rbPut link b => [0x10, link, b]
  | .rbGet link => [0x11, link]
  | .rbWrite link bytes => [0x12, link] ++ lenPrefixed bytes
  | .fpFeed link b => [0x18, link, b]
  | .ldRxByte link b => [0x20, link, b]
  | .ldPoll link => [0x21, link]
  | .ldWriteU16 link var value => [0x22, link, var] ++ le16 value
  | .ldReadU16 link var => [0x23, link, var]
  | .ldSend link cmd var hasValue value => [0x24, link, cmd, var, bitByte hasValue] ++ le16 value
  | .flInit => [0x30]
  | .flAppend code flags msg now => [0x31] ++ le16 code ++ le16 flags ++ lenPrefixed msg ++ le32 now
  | .flReadLastN n maxOut => [0x32] ++ le16 n ++ le16 maxOut
  | .flCountValid => [0x33]
  | .logWrite now => [0x34] ++ le32 now
  | .swRead var => [0x40, var]
  | .powerLoss => [0x7F]

/-- The port an instruction arrives at. -/
def Instr.port : Instr → Port
  | .frameReadReq link _ => .uart link
  | .frameReadReply link _ _ => .uart link
  | .frameWrite link _ _ => .uart link
  | .frameAck link _ _ => .uart link
  | .logRecord _ _ _ _ _ _ => .nvm
  | _ => .command

/-- The input that stands for an instruction. -/
def encode (c : Config) (i : Instr) : Input := ⟨i.port, encodeBytes c i⟩

/-! The words of spec/opcode_table.json as inputs (log entry 6). -/

/-- The `n` low bytes of `w`, least significant first. -/
def bytesOfNat : Nat → Nat → List Byte
  | 0, _ => []
  | n + 1, w => BitVec.ofNat 8 w :: bytesOfNat n (w / 256)

/-- The most zero bytes an operation word can need after the bits the table gives. -/
def tablePadding : Nat := 272

/-- The first operation of a byte string, cut to its own length; a string that starts with none is kept. -/
def firstWord (c : Config) (bytes : List Byte) : List Byte :=
  match decodePrefix c bytes with
  | .ok (_, rest) => bytes.take (bytes.length - rest.length)
  | .error _ => bytes

/-- Whether these are the bytes of a frame, by its first and last byte and its length. -/
def looksLikeFrame (c : Config) (bytes : List Byte) : Bool :=
  (bytes.length == 4 || bytes.length == 6)
    && bytes.head? == some c.frameStart && bytes.getLast? == some c.frameEnd

/-- An instruction whose table bits are `w`, as the input the environment would apply: a 33-byte number is a record,
a 4- or 6-byte number that begins and ends as a frame is a frame at link 0 (the table numbers a frame row's bits with
byte 0 most significant, rule R120; the other order is taken too), anything else is an operation word, its operand
bytes beyond `nbits` zero. -/
def tableInput (c : Config) (nbits w : Nat) : Input :=
  let bytes := bytesOfNat (nbits / 8) w
  if bytes.length = c.recordSize then ⟨.nvm, bytes⟩
  else if looksLikeFrame c bytes.reverse then ⟨.uart 0, bytes.reverse⟩
  else if looksLikeFrame c bytes then ⟨.uart 0, bytes⟩
  else ⟨.command, firstWord c (bytes ++ List.replicate tablePadding 0)⟩

/-- The instruction the decoder reads from a row's word, numbered as spec/opcode_table.json numbers it. -/
def decodeTableWord (nbits w : Nat) : Option Instr :=
  (decodeInput Config.default (tableInput Config.default nbits w)).toOption

end Sys2Proof
end

