-- ==== Sys2Proof/Machine/State.lean ====
section
/-! DEFINITION. The state of the block as plain data (spec 10_state.md), the reasons a step can stop, and the state
after reset (rule R64). -/

namespace Sys2Proof.Machine

/-! Names of the spec. -/

/-- Who drives a ring buffer (rules R3, R275): the Host directly, by RB_PUT, RB_WRITE and RB_GET, or its LinkDriver,
whose RxProducer produces and whose LinkConsumer consumes. -/
inductive RingUser where
  | direct
  | driver
  deriving DecidableEq, Repr

/-- The agents of rule R3. -/
inductive Agent where
  | scan
  | thermal
  | logWriter
  | rxProducer
  | linkConsumer
  | resetHandler
  | forceHandler
  | host
  | environment
  deriving DecidableEq, Repr

/-- The five fault rules, in evaluation order (rules R35, R190). -/
inductive RuleId where
  /-- 1 Door-requires-relays. -/
  | doorRelay
  /-- 2 Relay-contacts-match. -/
  | contacts
  /-- 3 Latch-error. -/
  | latchError
  /-- 4 Power-good. -/
  | powerGood
  /-- 5 Temperature-safe. -/
  | temperature
  deriving DecidableEq, Repr

/-- The edges a rule reports (rule R193). -/
inductive Edge where
  | activate
  | clear
  deriving DecidableEq, Repr

/-- The two directions of `BYPASS` events (rule R238). -/
inductive BypassEdge where
  | enter
  | leave
  deriving DecidableEq, Repr

/-- The latch sequences (rules R252, R253). -/
inductive LatchCommand where
  | fault
  | rearm
  deriving DecidableEq, Repr

/-- `OK` or `FAIL`: the status of an NVM transaction (rule R86) and of a FlashLog operation (rule R44). -/
inductive Status where
  | ok
  | fail
  deriving DecidableEq, Repr

/-- The result of a UART transmission (rule R321). -/
inductive TxResult where
  | ok
  | timeout
  deriving DecidableEq, Repr

/-- The kinds of `IO_ERROR` (rules R391, R392). -/
inductive IoKind where
  | nvmRead
  | nvmProgram
  | nvmErase
  | txTimeout
  deriving DecidableEq, Repr

/-- The points at which POWER_LOSS may cut an FL_APPEND (rule R346). -/
inductive CutPoint where
  /-- After the sector erase. -/
  | cut1
  /-- After the body program. -/
  | cut2
  /-- After the commit program. -/
  | cut3
  deriving DecidableEq, Repr

/-- The resting states of a FrameParser (rules R30, R285). -/
inductive FpState where
  | waitStart
  | waitLen
  | accum
  deriving DecidableEq, Repr

/-- How far an FL_APPEND in flight has got (rule R30). -/
inductive FlPhase where
  | idle
  | erased
  | bodyDone
  deriving DecidableEq, Repr

/-- The class of a slot by its commit byte (rule R90). -/
inductive SlotClass where
  | empty
  | valid
  | garbage
  deriving DecidableEq, Repr

/-- The kinds of log request (rule R211). -/
inductive LogKind where
  | latch
  | power
  | thermal
  deriving DecidableEq, Repr

/-- The conditions of rule R385 that act on the whole state. (FRAMING_ERROR acts on one link's parser only, `fpReset`
in Ops.lean; FATAL_INIT is raised by no operation, rule R396.) -/
inductive Condition where
  | doorRelay
  | contactMismatch
  | latchError
  | powerFail
  | overUnderTemp (temp : Half)
  | ioError (k : IoKind)
  | logDropped
  | rxOverrun
  deriving DecidableEq, Repr

/-- A ProtoFrame (rule R53): no state of its own, carried by results and events. -/
structure ProtoFrame where
  cmd      : Byte
  var      : Byte
  hasValue : Bool
  value    : Half
  deriving DecidableEq, Repr

/-- A log record without its commit field (rule R352). -/
structure LogRecord where
  seq   : Word
  ms    : Word
  code  : Half
  flags : Half
  msg   : List Byte
  deriving DecidableEq, Repr

/-- The kinds of output event (rule R9). -/
inductive Event where
  | change (input : Nat) (v : Bool)
  | rule (r : RuleId) (e : Edge)
  | bypass (e : BypassEdge)
  | thermalTrip (temp : Half)
  | thermalClear
  | ackRx (var : Byte) (value : Half)
  | readDataRx (var : Byte) (value : Half)
  | frameRx (f : ProtoFrame)
  | tx (bytes : List Byte) (r : TxResult)
  | latchSeq (c : LatchCommand)
  | ioError (k : IoKind)
  | logDropped
  deriving DecidableEq, Repr

/-- One NVM transaction as the NVM port sees it (rule R333). -/
inductive NvmOp where
  | erase (sector : Nat) (st : Status)
  | program (addr : Nat) (bytes : List Byte) (st : Status)
  | read (addr n : Nat) (st : Status)
  deriving DecidableEq, Repr

/-- What an operation returns to whoever applied it (rule R141). -/
inductive OpResult where
  /-- The operation returns nothing. -/
  | nothing
  /-- RB_PUT. -/
  | accepted (ok : Bool)
  /-- RB_GET: false, or true and a byte. -/
  | byte (b : Option Byte)
  /-- RB_WRITE. -/
  | count (n : Nat)
  /-- FP_FEED: NONE or FRAME(f). -/
  | frame (f : Option ProtoFrame)
  /-- LD_SEND, LD_WRITE_U16, LD_READ_U16. -/
  | sent (r : TxResult)
  /-- FL_INIT, FL_APPEND, LOG_WRITE. -/
  | status (st : Status)
  /-- FL_READ_LAST_N. -/
  | records (st : Status) (rs : List LogRecord)
  /-- FL_COUNT_VALID: no count after a failed read. -/
  | validCount (st : Status) (n : Option Nat)
  /-- SW_READ. -/
  | word (w : Half)
  deriving DecidableEq, Repr

/-! The parts of the state. -/

/-- InputScanner (rules R20, R22, R30, R37). -/
structure Scanner where
  /-- `st[0 .. NIN−1]`. -/
  st          : List Bool
  /-- `cnt[0 .. NIN−1]`. -/
  cnt         : List Nat
  /-- `scan_started`. -/
  started     : Bool
  /-- `system_ready`. -/
  systemReady : Bool
  /-- `t_start`. -/
  tStart      : Word
  deriving DecidableEq, Repr

/-- `active[1..5]` (rule R35). -/
structure ActiveFlags where
  doorRelay   : Bool
  contacts    : Bool
  latchError  : Bool
  powerGood   : Bool
  temperature : Bool
  deriving DecidableEq, Repr

/-- The private state of the evaluators (rule R36). -/
structure RuleState where
  r1ArmRunning    : Bool
  r1ArmT0         : Word
  r1Armed         : Bool
  r2SettleRunning : Bool
  r2SettleT0      : Word
  r2Last          : Bool
  r4Last          : Bool
  deriving DecidableEq, Repr

/-- The shared SafetyState flags (rule R40). -/
structure SafetyFlags where
  forceError      : Bool
  faultLatched    : Bool
  laserLatchedOff : Bool
  deriving DecidableEq, Repr

/-- The ThermalReading snapshot (rule R52). -/
structure ThermalReading where
  /-- Signed quarter-degrees (`i16`). -/
  temp       : Half
  oc         : Bool
  scg        : Bool
  scv        : Bool
  rangeFault : Bool
  raw        : Word
  deriving DecidableEq, Repr

/-- ThermalGuard's registers (rule R41). -/
structure ThermalGuard where
  fault    : Bool
  /-- `trip_temp`: i16, or none (rule R41). -/
  tripTemp : Option Half
  bypass   : Bool
  /-- `th`: record, or none (rule R41). -/
  reading  : Option ThermalReading
  deriving DecidableEq, Repr

/-- The event-signal registers (rule R43). -/
structure Signals where
  resetPending : Bool
  forcePending : Bool
  btnSeen      : Bool
  btnLastMs    : Word
  deriving DecidableEq, Repr

/-- FlashLog's volatile registers (rules R30, R44). -/
structure FlashLog where
  inited  : Bool
  cursor  : Nat
  nextSeq : Word
  status  : Status
  phase   : FlPhase
  deriving DecidableEq, Repr

/-- One link: its ring buffer (rule R50), its parser (rules R30, R51), `rx_notify` (rule R46). `user` is the MODEL's
own: who has driven the ring buffer since reset (rules R275, R441; entry 8). -/
structure Link where
  rbBuf      : List Byte
  rbHead     : Half
  rbTail     : Half
  fpState    : FpState
  fpIdx      : Nat
  fpExpected : Nat
  fpBuf      : List Byte
  rxNotify   : Bool
  user       : Option RingUser
  deriving DecidableEq, Repr

/-- What the environment has settled of its draws (rules R2, R10): the answers to the next NVM transactions, to the
next transmissions and to the next appends (`none`: not cut), and how many draws it has still left free. The MODEL's
own (entry 3); past the end of a list the draw is a free value of `Config` at `count`. -/
structure Draws where
  nvm   : List Status
  tx    : List TxResult
  cut   : List (Option CutPoint)
  count : Nat
  deriving DecidableEq, Repr

/-- The NVM (rules R55, R88) as address and byte pairs, addresses rising, no pair equal to what an unlisted address
reads as (`Memory.wf` in Ops.lean). -/
abbrev Memory := List Host.Cell

/-- The whole state. -/
structure State where
  /-- The configuration (rule R6): no operation writes it. -/
  cfg     : Config
  /-- InputScanner. -/
  scan    : Scanner
  /-- `active[1..5]`. -/
  active  : ActiveFlags
  /-- The evaluators' private state. -/
  rules   : RuleState
  /-- The shared SafetyState flags. -/
  safety  : SafetyFlags
  /-- ThermalGuard. -/
  thermal : ThermalGuard
  /-- `latch_q[1 .. N_LATCH]` (rule R42). -/
  latchQ  : List Bool
  /-- The reset and force signals. -/
  signals : Signals
  /-- FlashLog's registers. -/
  flash   : FlashLog
  /-- The log request queue, oldest first (rule R45). -/
  logq    : List LogRequest
  /-- The links 0 .. N_LINK−1. -/
  links   : List Link
  /-- The NVM. -/
  nvm     : Memory
  /-- The event trace, oldest first (rule R9). -/
  events  : List Event
  /-- The NVM transactions issued, oldest first (rule R333). -/
  nvmOps  : List NvmOp
  /-- The result of the last operation (rule R141). The MODEL's own: the value on the result side of the port. -/
  result  : OpResult
  /-- The environment's draws. The MODEL's own. -/
  draws   : Draws
  /-- The inputs the environment applies, next first (rules R2, R3). The MODEL's own: the block has no program. -/
  inbox   : List Input
  /-- `now_ms` of the last operation since reset that reads the time, for the premise of rule R4. The MODEL's own
  (entry 12). -/
  lastNow : Option Word
  deriving DecidableEq, Repr

/-- Why the machine stops with a fault. -/
inductive Fault where
  /-- Raised by FL_APPEND and LOG_WRITE where `cursor` is no slot 0 .. CAPACITY−1, so that the record would lie
  outside the log region (rules R80, R88). No run reaches such a state. Safe: the machine stops. -/
  | nvmOutsideRegion (cursor : Nat)
  deriving DecidableEq, Repr

/-- Why a step has no meaning (the spec's `refuse`). Each is safe: the model makes no move. -/
inductive Refusal where
  /-- An instruction without a meaning in this model. -/
  | notModelled (mnemonic : String)
  /-- Raised by the fetch: the input at the command port or at the NVM is no operation, or the link of a frame is none
  of the block's (rules R11, R87, R142; U17, U18, U19). -/
  | undecodable (e : DecodeError)
  /-- Raised by the fetch of an operation whose `now_ms` breaks the premise on the time base: time going back, or
  compared times 2^31 ms or more apart (rule R4; U22). -/
  | timeBaseBroken
  /-- Raised by any operation on a link the block does not have (rule R142; U17). -/
  | noSuchLink
  /-- Raised by SCAN_START after SCAN_START (rule R177; U15). -/
  | scanAlreadyStarted
  /-- Raised by SCAN_TICK and SW_READ before SCAN_START (rules R177, R378; U15). -/
  | scanNotStarted
  /-- Raised by DO_RESET with no pending request (rule R257; U16). -/
  | noPendingReset
  /-- Raised by DO_FORCE with no pending request (rule R258; U16). -/
  | noPendingForce
  /-- Raised by FL_APPEND, LOG_WRITE, FL_READ_LAST_N, FL_COUNT_VALID before FL_INIT (rule R359; U14). -/
  | logNotInitialised
  /-- Raised by LOG_WRITE with an empty queue (rule R350). -/
  | logQueueEmpty
  /-- Raised by LD_SEND for a command and has_value that make no frame (rule R318; U17). -/
  | notASendableFrame
  /-- Raised by SW_READ of an id the block does not build (rules R373, R378; U5). -/
  | variableNotBuilt
  /-- Raised where the producer side of a ring buffer is used by an agent other than that of who drives the buffer
  (rules R275, R441; U1). -/
  | secondProducer
  /-- Raised where the consumer side of a ring buffer is used by an agent other than that of who drives the buffer
  (rules R275, R441; U1). -/
  | secondConsumer
  /-- Raised by LOG_RECORD: a record image put to the NVM from outside is no operation (rules R11, R87; U19). -/
  | foreignRecord
  deriving DecidableEq, Repr

/-! Reset (rule R64). -/

/-- A link after reset: an empty ring buffer, the parser in WAIT_START. The contents of `rb_buf` and `fp_buf` are
unspecified and never read before written; they are zeros here. DESIGN CHOICE (log entry 1). -/
def Link.reset (c : Config) : Link where
  rbBuf      := List.replicate c.rbN 0
  rbHead     := 0
  rbTail     := 0
  fpState    := .waitStart
  fpIdx      := 0
  fpExpected := 0
  fpBuf      := List.replicate c.fpBufLen 0
  rxNotify   := false
  user       := none

/-- The table of rule R64 under configuration `c`. The elements for which that table says `none` or a draw hold the
value of log entry 1 (zeros; every latch 0). DESIGN CHOICE. The NVM lists nothing (a fresh device, log entry 4). -/
def State.resetWith (c : Config) : State where
  cfg     := c
  scan    := ⟨List.replicate c.nin false, List.replicate c.nin 0, false, false, 0⟩
  active  := ⟨false, false, false, false, false⟩
  rules   := ⟨false, 0, false, false, 0, false, false⟩
  safety  := ⟨false, false, false⟩
  thermal := ⟨false, none, false, none⟩
  latchQ  := List.replicate c.nLatch false
  signals := ⟨false, false, false, 0⟩
  flash   := ⟨false, 0, 0, .ok, .idle⟩
  logq    := []
  links   := List.replicate c.nLink (Link.reset c)
  nvm     := []
  events  := []
  nvmOps  := []
  result  := .nothing
  draws   := ⟨[], [], [], 0⟩
  inbox   := []
  lastNow := none

/-- The machine right after reset, in the default configuration. -/
def State.reset : State := State.resetWith Config.default

/-! Writing one part of the state. -/

def State.setScan (s : State) (x : Scanner) : State := { s with scan := x }
def State.setActive (s : State) (x : ActiveFlags) : State := { s with active := x }
def State.setRules (s : State) (x : RuleState) : State := { s with rules := x }
def State.setSafety (s : State) (x : SafetyFlags) : State := { s with safety := x }
def State.setThermal (s : State) (x : ThermalGuard) : State := { s with thermal := x }
def State.setLatchQ (s : State) (x : List Bool) : State := { s with latchQ := x }
def State.setSignals (s : State) (x : Signals) : State := { s with signals := x }
def State.setFlash (s : State) (x : FlashLog) : State := { s with flash := x }
def State.setLogq (s : State) (x : List LogRequest) : State := { s with logq := x }
def State.setLinks (s : State) (x : List Link) : State := { s with links := x }
def State.setNvm (s : State) (x : Memory) : State := { s with nvm := x }
def State.setEvents (s : State) (x : List Event) : State := { s with events := x }
def State.setNvmOps (s : State) (x : List NvmOp) : State := { s with nvmOps := x }
def State.setResult (s : State) (x : OpResult) : State := { s with result := x }
def State.setDraws (s : State) (x : Draws) : State := { s with draws := x }
def State.setInbox (s : State) (x : List Input) : State := { s with inbox := x }
def State.setLastNow (s : State) (x : Option Word) : State := { s with lastNow := x }

end Sys2Proof.Machine
end

