-- ==== Sys2Proof/Machine/Operands.lean ====
section
/-! DEFINITION. Every operand form: input numbers and raw samples, times, temperatures, frames, ring addresses, slot
addresses and the record (spec 10_state.md R21, 20_memory.md R81, R88 to R90, 30_encoding.md, 47_flash_log.md R332). -/

namespace Sys2Proof.Machine

/-! Inputs (rule R21). -/

def inDoor : Nat := 0
def inEstop : Nat := 1
def inKey : Nat := 2
def inBdo : Nat := 3
def inRelay1 : Nat := 4
def inRelay2 : Nat := 5
def inV12 : Nat := 6
def inV24 : Nat := 7
def inFuse12 : Nat := 8

/-- NO_(k+1). -/
def inNo (k : Nat) : Nat := 9 + 2 * k

/-- NC_(k+1). -/
def inNc (k : Nat) : Nat := 10 + 2 * k

/-- LATCH_ERR_(j+1). -/
def inLatchErr (c : Config) (j : Nat) : Nat := 9 + 2 * c.nContact + j

/-- REMOTE_(m+1): read by no rule. -/
def inRemote (c : Config) (m : Nat) : Nat := 9 + 2 * c.nContact + c.nLatchErr + m

/-- `raw[i]`: bit `i mod 8` of byte `i div 8` (rule R140); padding bits are never asked for (rule R179). -/
def rawBit (raw : List Byte) (i : Nat) : Bool := (raw.getD (i / 8) 0).getLsbD (i % 8)

/-! Time (rules R4, R5). -/

/-- `elapsed(now, t0) = (now − t0) mod 2^32`. -/
def elapsed (now t0 : Word) : Nat := (now - t0).toNat

/-! Temperature (rule R231). -/

/-- An `i16` as an integer number of quarter-degrees. -/
def quarterDegrees (t : Half) : Int := t.toInt

/-- `oc`, `scg`, `scv`: bits 0, 1, 2 of the flag byte; bits 3 to 7 are ignored (rule R232). -/
def flOc (fl : Byte) : Bool := fl.getLsbD 0
def flScg (fl : Byte) : Bool := fl.getLsbD 1
def flScv (fl : Byte) : Bool := fl.getLsbD 2

/-- `TempByte()` of a reading: nearest degree, halves upward, clamped to 0 .. 255 (rule R375). -/
def roundedTemp (t : Half) : Byte :=
  if quarterDegrees t < 0 then 0 else BitVec.ofNat 8 (min 255 (((quarterDegrees t).toNat + 2) / 4))

/-! Frames (rule R122). -/

/-- `role` of link `k` (rule R46). -/
def roleOf (c : Config) (k : Nat) : Role := c.roles.getD k .slave

/-- `frame_len(role, cmd)`; 0 for a byte that is no command. -/
def frameLen (c : Config) (role : Role) (cmd : Byte) : Nat :=
  if cmd = c.cmdWrite then 6
  else if cmd = c.cmdAck then 6
  else if cmd = c.cmdRead then
    match role with
    | .master => 6
    | .slave => 4
  else 0

/-- The combinations LD_SEND admits (rule R318). -/
def sendable (c : Config) (cmd : Byte) (hasValue : Bool) : Bool :=
  (cmd == c.cmdWrite || cmd == c.cmdAck) && hasValue || cmd == c.cmdRead

/-- The value part of a frame to build: `value` is ignored when `has_value` is 0 (rule R318). -/
def valuePart (hasValue : Bool) (value : Half) : Option Half := if hasValue then some value else none

/-! Ring addresses (rule R81). -/

/-- The RB address of counter value `n`: `n & (RB_N − 1)`. -/
def ringIndex (c : Config) (n : Half) : Nat := (n &&& BitVec.ofNat 16 (c.rbN - 1)).toNat

/-! The log region (rules R88 to R90, R331). -/

/-- RPS, records per sector. -/
def rps (c : Config) : Nat := c.sectorSize / c.recordSize

/-- CAPACITY, slots. -/
def capacity (c : Config) : Nat := c.logSectors * rps c

/-- The length of a record's body, all but the commit byte; also the offset of the commit byte (rule R89). -/
def bodyLen (c : Config) : Nat := 12 + c.msgLen

/-- `sector_of(k)`. -/
def sectorOf (c : Config) (k : Nat) : Nat := k / rps c

/-- The first address of sector `n`. -/
def sectorAddr (c : Config) (n : Nat) : Nat := c.logBase + n * c.sectorSize

/-- `slot_addr(k)`. -/
def slotAddr (c : Config) (k : Nat) : Nat := sectorAddr c (sectorOf c k) + k % rps c * c.recordSize

/-- The address of slot `k`'s commit byte. -/
def commitAddr (c : Config) (k : Nat) : Nat := slotAddr c k + bodyLen c

/-- Slot `k` is the first slot of a sector. -/
def firstOfSector (c : Config) (k : Nat) : Bool := k % rps c == 0

/-- `(k − d) mod CAPACITY` for `d ≤ CAPACITY` (rules R335, R352). -/
def slotBack (c : Config) (k d : Nat) : Nat := (k + capacity c - d) % capacity c

/-- The class of a slot by its commit byte. -/
def slotClass (c : Config) (commit : Byte) : SlotClass :=
  if commit = c.erased then .empty else if commit = c.commitVal then .valid else .garbage

/-! The record (rules R131, R332). -/

/-- `Pad20(msg)`: cut at MSG_LEN, padded with 0x00. -/
def padMsg (c : Config) (msg : List Byte) : List Byte :=
  msg.take c.msgLen ++ List.replicate (c.msgLen - min msg.length c.msgLen) 0

/-- `Body(seq, ms, code, flags, msg)`. -/
def recordBody (c : Config) (seq ms : Word) (r : LogRequest) : List Byte :=
  le32 seq ++ le32 ms ++ le16 r.code ++ le16 r.flags ++ padMsg c r.msg

/-- `u16le` at an offset of a byte string. -/
def u16At (b : List Byte) (i : Nat) : Half := u16le (b.getD i 0) (b.getD (i + 1) 0)

/-- `u32le` at an offset of a byte string. -/
def u32At (b : List Byte) (i : Nat) : Word :=
  u32le (b.getD i 0) (b.getD (i + 1) 0) (b.getD (i + 2) 0) (b.getD (i + 3) 0)

/-- `Unpack(b)` without its commit field. -/
def unpack (c : Config) (b : List Byte) : LogRecord where
  seq   := u32At b 0
  ms    := u32At b 4
  code  := u16At b 8
  flags := u16At b 10
  msg   := (b.drop 12).take c.msgLen

/-- The commit field of a record. -/
def unpackCommit (c : Config) (b : List Byte) : Byte := b.getD (bodyLen c) 0

/-! The log event table (rule R212). -/

def logEvent (c : Config) : LogKind → LogRequest
  | .latch => c.logLatch
  | .power => c.logPower
  | .thermal => c.logThermal

end Sys2Proof.Machine
end

