-- ==== Sys2Proof/Machine/Flags.lean ====
section
/-! DEFINITION. Every flag computation: the snapshot predicates the rules read (spec 41_fault_rules.md), debouncing of
one input (R172, R173), the ready flag (R175), the grace timers (R197, R200), the thermal comparisons (R233, R235),
the button window (R256), the derived outputs (R42, R376) and the bits of the status words (R371, R374). -/

namespace Sys2Proof.Machine

/-- `st[i]`. -/
def State.st (s : State) (i : Nat) : Bool := s.scan.st.getD i false

/-- `cnt[i]`. -/
def State.cnt (s : State) (i : Nat) : Nat := s.scan.cnt.getD i 0

/-- `all4`, the four primary safeties (rule R196). -/
def all4 (s : State) : Bool := s.st inDoor && s.st inEstop && s.st inKey && s.st inBdo

/-- Both relay feedbacks on. -/
def bothRelays (s : State) : Bool := s.st inRelay1 && s.st inRelay2

/-- Some contact pair with NO = 0 or NC = 1 (rule R202). -/
def contactMismatch (s : State) : Bool :=
  (List.range s.cfg.nContact).any fun k => !s.st (inNo k) || s.st (inNc k)

/-- Some hardware latch-error line at 1 (rule R205). -/
def latchErrLine (s : State) : Bool := (List.range s.cfg.nLatchErr).any fun j => s.st (inLatchErr s.cfg j)

/-- Some rail bad (rule R208). -/
def railBad (s : State) : Bool := !s.st inV12 || !s.st inV24 || !s.st inFuse12

/-- What one sample does to one input: its new `st` and `cnt`, and whether a change was committed (rules R172, R173). -/
def debounceOne (n : Nat) (raw st : Bool) (cnt : Nat) : Bool × Nat × Bool :=
  if raw != st then
    if cnt + 1 = n then (raw, 0, true) else (st, cnt + 1, false)
  else (st, 0, false)

/-- The new `system_ready` (rule R175). -/
def readyAfter (c : Config) (now : Word) (x : Scanner) : Bool :=
  x.systemReady || decide (c.readyMs ≤ elapsed now x.tStart)

/-- Rule 1's arming timer in a tick in which nothing disarms it (rule R197). -/
def armTimer (c : Config) (now : Word) (r : RuleState) : RuleState :=
  if r.r1Armed then r
  else
    let r := if r.r1ArmRunning then r else { r with r1ArmRunning := true, r1ArmT0 := now }
    if c.armMs ≤ elapsed now r.r1ArmT0 then { r with r1Armed := true } else r

/-- Rule 2's settle timer in a tick in which it is not suppressed (rule R200). -/
def settleTimer (now : Word) (r : RuleState) : RuleState :=
  if r.r2SettleRunning then r else { r with r2SettleRunning := true, r2SettleT0 := now }

/-- `active[r]` (rule R35). -/
def ActiveFlags.get (a : ActiveFlags) : RuleId → Bool
  | .doorRelay => a.doorRelay
  | .contacts => a.contacts
  | .latchError => a.latchError
  | .powerGood => a.powerGood
  | .temperature => a.temperature

/-- `active[r] <- v`. -/
def ActiveFlags.set (a : ActiveFlags) (r : RuleId) (v : Bool) : ActiveFlags :=
  match r with
  | .doorRelay => { a with doorRelay := v }
  | .contacts => { a with contacts := v }
  | .latchError => { a with latchError := v }
  | .powerGood => { a with powerGood := v }
  | .temperature => { a with temperature := v }

/-- The edge a rule reports when its flag goes from `was` to `now`, if any (rule R193). -/
def edgeOf (was now : Bool) : Option Edge :=
  match was, now with
  | false, true => some .activate
  | true, false => some .clear
  | _, _ => none

/-- `temp > T_HIGH_TRIP || temp < T_LOW_TRIP`: the range-fault flag (rule R241) and half of the trip condition. -/
def outOfRange (c : Config) (temp : Half) : Bool :=
  decide (c.tHighTrip < quarterDegrees temp) || decide (quarterDegrees temp < c.tLowTrip)

/-- `sensor_fault`: the OR of the three fault-flag bits (rule R241). -/
def sensorFault (fl : Byte) : Bool := flOc fl || flScg fl || flScv fl

/-- The trip condition (rule R233). -/
def tripCond (c : Config) (temp : Half) (fl : Byte) : Bool := sensorFault fl || outOfRange c temp

/-- The clear condition (rule R235). -/
def clearCond (c : Config) (temp : Half) (fl : Byte) : Bool :=
  !sensorFault fl && decide (quarterDegrees temp < c.tHighClear) && decide (c.tLowClear < quarterDegrees temp)

/-- The snapshot THERMAL_SAMPLE publishes (rules R52, R232). -/
def readingOf (c : Config) (temp : Half) (fl : Byte) (raw32 : Word) : ThermalReading :=
  ⟨temp, flOc fl, flScg fl, flScv fl, outOfRange c temp, raw32⟩

/-- Whether a button edge is accepted (rule R256). -/
def btnAccepted (c : Config) (now : Word) (g : Signals) : Bool :=
  !g.btnSeen || decide (c.btnDebounceMs ≤ elapsed now g.btnLastMs)

/-- `laser_en = !sw_laser_latched_off`: a derived output (rules R42, R251). -/
def laserEn (s : State) : Bool := !s.safety.laserLatchedOff

/-- "temperature-ok", bit 5 of the active word (rule R376). -/
def temperatureOk (s : State) : Bool := s.thermal.bypass || !s.thermal.fault

/-- A Bool at bit `k` of a status word. -/
def wordBit (b : Bool) (k : Nat) : Half := if b then (1 : Half) <<< k else 0

/-- The bits of the debug word that rule R371 lists. -/
def debugBits (s : State) : Half :=
  wordBit (s.st inRelay1) 4 ||| wordBit (s.st inRelay2) 5 ||| wordBit s.active.doorRelay 6
    ||| wordBit s.active.contacts 7 ||| wordBit s.active.latchError 8 ||| wordBit (s.st inV12) 9
    ||| wordBit (s.st inV24) 10 ||| wordBit (s.st inFuse12) 11

/-- Bits 0 to 5 of the active word (rule R374). -/
def activeBits (s : State) : Half :=
  wordBit (s.st inDoor) 0 ||| wordBit (s.st inEstop) 1 ||| wordBit (s.st inKey) 2 ||| wordBit (s.st inBdo) 3
    ||| wordBit s.active.latchError 4 ||| wordBit (temperatureOk s) 5

end Sys2Proof.Machine
end

