-- ==== Sys2Proof/Machine/Ops.lean ====
section
/-! DEFINITION. The shared operations over the state: memory, the environment's draws, the NVM port (rules R83 to
R86), events, the ring buffer (R270 to R272), the parser (R286 to R292), the actuations (R251 to R253), the log
requests (R211), raising a condition and clearing the safety faults (spec 60_exceptions.md), the volatile reset (R64),
and the fetch of the next input. -/

namespace Sys2Proof.Machine

/-! ## Memory (spec 20_memory.md; log entry 4) -/

/-- What an unlisted address reads as: the erased byte of a fresh device (rule R65). DESIGN CHOICE. -/
def Memory.unlisted : Byte := 0xFF

/-- The byte at an address. -/
def Memory.read : Memory → Nat → Byte
  | [], _ => Memory.unlisted
  | (a, b) :: m, x => if a = x then b else Memory.read m x

/-- Store one byte, keeping the canonical form. -/
def Memory.write : Memory → Nat → Byte → Memory
  | [], x, v => if v = Memory.unlisted then [] else [(x, v)]
  | (a, b) :: m, x, v =>
    if x < a then
      if v = Memory.unlisted then (a, b) :: m else (x, v) :: (a, b) :: m
    else if x = a then
      if v = Memory.unlisted then m else (x, v) :: m
    else (a, b) :: Memory.write m x v

/-- The canonical form: addresses strictly rising, no entry equal to what an unlisted address reads as. -/
abbrev Memory.wf (m : Memory) : Prop :=
  m.Pairwise (fun p q => p.1 < q.1) ∧ ∀ p ∈ m, p.2 ≠ Memory.unlisted

/-- `MemRead(NVM, addr, n)` (rule R80). -/
def Memory.readN (m : Memory) (addr n : Nat) : List Byte := (List.range n).map fun i => m.read (addr + i)

/-- Store a byte string, lowest address first (rule R80). -/
def Memory.writeN : Memory → Nat → List Byte → Memory
  | m, _, [] => m
  | m, addr, b :: bs => Memory.writeN (m.write addr b) (addr + 1) bs

/-- Give `n` bytes from `addr` on the value `v`. -/
def Memory.fill (m : Memory) (addr n : Nat) (v : Byte) : Memory :=
  if v = Memory.unlisted then m.filter fun p => decide (p.1 < addr) || decide (addr + n ≤ p.1)
  else m.writeN addr (List.replicate n v)

/-! ## Draws (rule R10; log entry 3) -/

/-- One more draw has been left free. -/
def State.countDraw (s : State) : State := s.setDraws { s.draws with count := s.draws.count + 1 }

/-- The answer to the next NVM transaction (rule R86): the environment's, or a free value. -/
def Draws.nvmAnswer (d : Draws) : Status :=
  match d.nvm with
  | st :: _ => st
  | [] => if Config.freeNvmOk d.count then .ok else .fail

/-- The draws that remain after it. -/
def Draws.afterNvm (d : Draws) : Draws :=
  match d.nvm with
  | _ :: rest => { d with nvm := rest }
  | [] => { d with count := d.count + 1 }

/-- The answer to the next transmission (rule R321). -/
def Draws.txAnswer (d : Draws) : TxResult :=
  match d.tx with
  | r :: _ => r
  | [] => if Config.freeTxOk d.count then .ok else .timeout

/-- The draws that remain after it. -/
def Draws.afterTx (d : Draws) : Draws :=
  match d.tx with
  | _ :: rest => { d with tx := rest }
  | [] => { d with count := d.count + 1 }

/-- A cut point by its number; 0 is none. -/
def cutOfNat : Nat → Option CutPoint
  | 1 => some .cut1
  | 2 => some .cut2
  | 3 => some .cut3
  | _ => none

/-- Where the supply fails in the next FL_APPEND, if anywhere (rule R346). -/
def Draws.cutAnswer (d : Draws) : Option CutPoint :=
  match d.cut with
  | c :: _ => c
  | [] => cutOfNat (Config.freeCut d.count).toNat

/-- The draws that remain after it. -/
def Draws.afterCut (d : Draws) : Draws :=
  match d.cut with
  | _ :: rest => { d with cut := rest }
  | [] => { d with count := d.count + 1 }

/-- Draw the status of an NVM transaction. -/
def drawNvm (s : State) : Status × State := (s.draws.nvmAnswer, s.setDraws s.draws.afterNvm)

/-- Draw the result of a transmission. -/
def drawTx (s : State) : TxResult × State := (s.draws.txAnswer, s.setDraws s.draws.afterTx)

/-- Draw the cut of an FL_APPEND. -/
def drawCut (s : State) : Option CutPoint × State := (s.draws.cutAnswer, s.setDraws s.draws.afterCut)

/-! ## Events (rule R9) -/

/-- `emit E`. -/
def State.emit (s : State) (e : Event) : State := s.setEvents (s.events ++ [e])

/-- Emit several events in order. -/
def State.emitAll (s : State) (es : List Event) : State := s.setEvents (s.events ++ es)

/-! ## The NVM port (rules R83 to R86, R333) -/

/-- A transaction is visible at the NVM port (rule R333). -/
def State.logNvmOp (s : State) (op : NvmOp) : State := s.setNvmOps (s.nvmOps ++ [op])

/-- `NvmRead(addr, n)` (rule R83): the bytes with OK, none with FAIL (they are used for nothing, rule R358). -/
def nvmRead (addr n : Nat) (s : State) : Option (List Byte) × State :=
  match drawNvm s with
  | (.ok, s) => (some (s.nvm.readN addr n), s.logNvmOp (.read addr n .ok))
  | (.fail, s) => (none, s.logNvmOp (.read addr n .fail))

/-- The bytes a program leaves: `old & new` with OK (rule R84). -/
def programmed (m : Memory) (addr : Nat) (bytes : List Byte) : List Byte :=
  (List.range bytes.length).map fun j => m.read (addr + j) &&& bytes.getD j 0

/-- The bytes a failed program leaves: each bit unchanged (where the free mask is 1) or programmed (rule R84). -/
def halfProgrammed (m : Memory) (addr : Nat) (bytes : List Byte) (n : Nat) : List Byte :=
  (List.range bytes.length).map fun j => m.read (addr + j) &&& (bytes.getD j 0 ||| Config.freeNvmByte n j)

/-- `NvmProgram(addr, bytes)` (rule R84). -/
def nvmProgram (addr : Nat) (bytes : List Byte) (s : State) : Status × State :=
  match drawNvm s with
  | (.ok, s) =>
    (.ok, (s.setNvm (s.nvm.writeN addr (programmed s.nvm addr bytes))).logNvmOp (.program addr bytes .ok))
  | (.fail, s) =>
    (.fail, ((s.setNvm (s.nvm.writeN addr (halfProgrammed s.nvm addr bytes s.draws.count))).countDraw).logNvmOp
      (.program addr bytes .fail))

/-- `NvmEraseSector(n)` (rule R85): with FAIL every byte of the sector is a free value. -/
def nvmErase (n : Nat) (s : State) : Status × State :=
  match drawNvm s with
  | (.ok, s) =>
    (.ok, (s.setNvm (s.nvm.fill (sectorAddr s.cfg n) s.cfg.sectorSize s.cfg.erased)).logNvmOp (.erase n .ok))
  | (.fail, s) =>
    (.fail, ((s.setNvm (s.nvm.writeN (sectorAddr s.cfg n)
      ((List.range s.cfg.sectorSize).map (Config.freeNvmByte s.draws.count)))).countDraw).logNvmOp (.erase n .fail))

/-! ## Links -/

/-- Replace link `k`. -/
def State.setLink (s : State) (k : Nat) (l : Link) : State := s.setLinks (s.links.set k l)

/-- Run `f` on the link an operand names (rule R142: a link the block does not have is refused). -/
def onLink (link : Byte) (s : State) (f : Link → Host.Outcome State Fault Refusal) :
    Host.Outcome State Fault Refusal :=
  match s.links[link.toNat]? with
  | some l => f l
  | none => .refused .noSuchLink

/-- `u` drives the ring buffer; none if it is the other's (rules R275, R441): a ring buffer is driven, on both its
sides, either by the Host directly or by its LinkDriver. -/
def claimRing (u : RingUser) (l : Link) : Option Link :=
  if l.user = none ∨ l.user = some u then some { l with user := some u } else none

/-- `rb_count` (rule R270). -/
def ringCount (l : Link) : Nat := (l.rbHead - l.rbTail).toNat

/-- `RB_PUT(b)` (rule R271). -/
def ringPut (c : Config) (b : Byte) (l : Link) : Link × Bool :=
  if ringCount l = c.rbN then (l, false)
  else ({ l with rbBuf := l.rbBuf.set (ringIndex c l.rbHead) b, rbHead := l.rbHead + 1 }, true)

/-- `RB_GET()` (rule R272). -/
def ringGet (c : Config) (l : Link) : Link × Option Byte :=
  if ringCount l = 0 then (l, none)
  else ({ l with rbTail := l.rbTail + 1 }, some (l.rbBuf.getD (ringIndex c l.rbTail) 0))

/-- `RB_WRITE(bytes)`: puts up to the first that is refused, and how many were put (rule R273). -/
def ringWrite (c : Config) : List Byte → Link → Link × Nat
  | [], l => (l, 0)
  | b :: bs, l =>
    match ringPut c b l with
    | (l', true) => ((ringWrite c bs l').1, (ringWrite c bs l').2 + 1)
    | (l', false) => (l', 0)

/-- `FpReset()` (rule R292); also all that a FRAMING_ERROR does (rule R393). -/
def fpReset (l : Link) : Link := { l with fpState := .waitStart, fpIdx := 0, fpExpected := 0 }

/-- `Decode()` (rule R291). -/
def fpDecode (l : Link) : ProtoFrame :=
  if l.fpExpected = 6 then
    ⟨l.fpBuf.getD 1 0, l.fpBuf.getD 2 0, true, u16le (l.fpBuf.getD 3 0) (l.fpBuf.getD 4 0)⟩
  else ⟨l.fpBuf.getD 1 0, l.fpBuf.getD 2 0, false, 0⟩

/-- `FP_FEED(b)` (rule R286). -/
def fpFeed (c : Config) (role : Role) (b : Byte) (l : Link) : Link × Option ProtoFrame :=
  match l.fpState with
  | .waitStart =>
    if b = c.frameStart then ({ l with fpBuf := l.fpBuf.set 0 b, fpIdx := 1, fpState := .waitLen }, none)
    else (l, none)
  | .waitLen =>
    let l := { l with fpBuf := l.fpBuf.set 1 b, fpIdx := 2, fpExpected := frameLen c role b }
    if l.fpExpected = 0 ∨ c.fpBufLen < l.fpExpected then (fpReset l, none)
    else ({ l with fpState := .accum }, none)
  | .accum =>
    let l := { l with fpBuf := l.fpBuf.set l.fpIdx b, fpIdx := l.fpIdx + 1 }
    if l.fpIdx < l.fpExpected then (l, none)
    else if l.fpBuf.getD (l.fpExpected - 1) 0 = c.frameEnd then (fpReset l, some (fpDecode l))
    else (fpReset l, none)

/-- `Dispatch(f)`: the events that stand for the callbacks (rule R313). -/
def dispatchFrame (c : Config) (f : ProtoFrame) : List Event :=
  if f.cmd = c.cmdAck then [.frameRx f, .ackRx f.var f.value]
  else if f.cmd = c.cmdRead ∧ f.hasValue = true then [.frameRx f, .readDataRx f.var f.value]
  else [.frameRx f]

/-- `LD_RX_BYTE(b)` on its link: queue the byte (a refused one is lost: RX_OVERRUN, which does nothing), raise the
wake-up (rules R311, R395). -/
def rxByte (c : Config) (b : Byte) (l : Link) : Link := { (ringPut c b l).1 with rxNotify := true }

/-- The loop of `LD_POLL`: at most `n` bytes through the parser, with the events dispatched (rule R312). -/
def drain (c : Config) (role : Role) : Nat → Link → Link × List Event
  | 0, l => (l, [])
  | n + 1, l =>
    match ringGet c l with
    | (l, none) => (l, [])
    | (l, some b) =>
      match fpFeed c role b l with
      | (l, none) => drain c role n l
      | (l, some f) => ((drain c role n l).1, dispatchFrame c f ++ (drain c role n l).2)

/-- `LD_POLL()` on its link: clear the wake-up, then drain all that is queued (rule R312). -/
def pollLink (c : Config) (role : Role) (l : Link) : Link × List Event :=
  drain c role (ringCount l) { l with rxNotify := false }

/-! ## Actuation (rules R251 to R253) -/

/-- `LaserDisable()`. -/
def laserDisable (s : State) : State := s.setSafety { s.safety with laserLatchedOff := true }

/-- `sw_force_error <- 1` (rule R214). -/
def forceError (s : State) : State := s.setSafety { s.safety with forceError := true }

/-- `sw_fault_latched <- 1`. -/
def latchFault (s : State) : State := s.setSafety { s.safety with faultLatched := true }

/-- `LatchSequence(FAULT)` and `LatchSequence(REARM)`: every latch to 0, or to 1. -/
def latchSequence (x : LatchCommand) (s : State) : State :=
  (s.setLatchQ (List.replicate s.cfg.nLatch (x == .rearm))).emit (.latchSeq x)

/-- `LogRequest(kind)` (rule R211). -/
def logRequest (k : LogKind) (s : State) : State :=
  if s.logq.length < s.cfg.logqDepth then s.setLogq (s.logq ++ [logEvent s.cfg k]) else s.emit .logDropped

/-! ## Conditions (spec 60_exceptions.md): this block's exceptions -/

/-- `raise X`: the entry actions of condition `X`, in the order of rule R405 and the rules R386 to R395. Nothing is
saved and no mode changes; the reporting of a safety fault is the edge bookkeeping `reportEdge`. -/
def raiseCondition (x : Condition) (s : State) : State :=
  match x with
  | .doorRelay => s
  | .contactMismatch => forceError s
  | .latchError => logRequest .latch (latchFault (laserDisable (latchSequence .fault s)))
  | .powerFail => logRequest .power (laserDisable (forceError s))
  | .overUnderTemp temp =>
    (logRequest .thermal (laserDisable (forceError
      (s.setThermal { s.thermal with fault := true, tripTemp := some temp })))).emit (.thermalTrip temp)
  | .ioError k => s.emit (.ioError k)
  | .logDropped => s.emit .logDropped
  | .rxOverrun => s

/-- The clearing path of the safety faults, DO_RESET's: the three flags 0, then the latches re-armed (rules R257,
R408). -/
def clearSafetyFaults (s : State) : State := latchSequence .rearm (s.setSafety ⟨false, false, false⟩)

/-- `edge(r, now_active)`: the engine's bookkeeping, the only writer of `active[r]` (rule R193). -/
def reportEdge (r : RuleId) (v : Bool) (s : State) : State :=
  match edgeOf (s.active.get r) v with
  | some e => (s.setActive (s.active.set r v)).emit (.rule r e)
  | none => s

/-- `Fail(kind)`: what every FlashLog operation does when a transaction returns FAIL (rule R334). -/
def flFail (k : IoKind) (s : State) : State :=
  raiseCondition (.ioError k) (s.setFlash { s.flash with status := .fail, phase := .idle })

/-! ## Reset (rules R64, R430, R431) -/

/-- Every volatile element as rule R64 has it, `latch_q` drawn. The NVM, the two traces and the parameters are kept
(rules R61, R65), and so is what belongs to the environment: its draws and its inputs. -/
def volatileReset (s : State) : State :=
  { State.resetWith s.cfg with
    latchQ := (List.range s.cfg.nLatch).map (Config.freeLatch s.draws.count)
    nvm    := s.nvm
    events := s.events
    nvmOps := s.nvmOps
    draws  := { s.draws with count := s.draws.count + 1 }
    inbox  := s.inbox }

/-! ## Completion and fetch -/

/-- An operation that returns `r` is complete (rule R141). -/
def done (r : OpResult) (s : State) : Host.Outcome State Fault Refusal := .next (s.setResult r)

/-- The next input of the environment, and the state without it. -/
def fetch (s : State) : Option (Input × State) :=
  match s.inbox with
  | [] => none
  | x :: rest => some (x, s.setInbox rest)

end Sys2Proof.Machine
end

