-- ==== Sys2Proof/Machine/FlashOps.lean ====
section
/-! DEFINITION. FlashLog and the log writer: FL_INIT, FL_APPEND, LOG_WRITE, FL_READ_LAST_N, FL_COUNT_VALID (spec
47_flash_log.md), and LOG_RECORD (rule R130), which is no operation. -/

namespace Sys2Proof.Machine

/-- `fl_status <- OK`, with which every FlashLog operation begins. -/
def flBegin (s : State) : State := s.setFlash { s.flash with status := .ok }

/-- `fl_phase <- p`. -/
def setPhase (p : FlPhase) (s : State) : State := s.setFlash { s.flash with phase := p }

/-- Return `fl_status`. -/
def flDone (s : State) : State := s.setResult (.status s.flash.status)

/-! ## Init (rules R335 to R337) -/

/-- Step 1: the first slot of `ks` whose commit byte is ERASED; `some none` if there is none, `none` after a failed
read. -/
def findEmpty : List Nat → State → Option (Option Nat) × State
  | [], s => (some none, s)
  | k :: ks, s =>
    match nvmRead (commitAddr s.cfg k) 1 s with
    | (none, s) => (none, s)
    | (some b, s) => if b.getD 0 0 = s.cfg.erased then (some (some k), s) else findEmpty ks s

/-- Step 2: the sequence number of the first VALID slot of `ks`; `some none` if there is none, `none` after a failed
read. -/
def findNewest : List Nat → State → Option (Option Word) × State
  | [], s => (some none, s)
  | k :: ks, s =>
    match nvmRead (slotAddr s.cfg k) s.cfg.recordSize s with
    | (none, s) => (none, s)
    | (some b, s) =>
      if unpackCommit s.cfg b = s.cfg.commitVal then (some (some (unpack s.cfg b).seq), s) else findNewest ks s

/-- The slots before `k`, nearest first, at most `n` of them. -/
def slotsBefore (c : Config) (k n : Nat) : List Nat := (List.range n).map fun d => slotBack c k (d + 1)

/-- The sequence number after the newest one, or 1 (rule R335). -/
def seqAfter : Option Word → Word
  | some q => q + 1
  | none => 1

/-- `FL_INIT()` (rule R335). -/
def initLog (s : State) : State :=
  match findEmpty (List.range (capacity s.cfg)) (flBegin s) with
  | (none, s) => flFail .nvmRead s
  | (some e, s) =>
    match findNewest (slotsBefore s.cfg (e.getD 0) (capacity s.cfg)) s with
    | (none, s) => flFail .nvmRead s
    | (some q, s) =>
      s.setFlash { s.flash with cursor := e.getD 0, nextSeq := seqAfter q, phase := .idle, inited := true }

/-- FL_INIT (rule R335). -/
def execFlInit (s : State) : Host.Outcome State Fault Refusal := .next (flDone (initLog s))

/-! ## Append (rules R340 to R346) -/

/-- The commit step and the advance (rules R343, R345), with cut 3. -/
def appendCommit (cut : Option CutPoint) (s : State) : State :=
  match nvmProgram (commitAddr s.cfg s.flash.cursor) [s.cfg.commitVal] s with
  | (.fail, s) => flDone (flFail .nvmProgram s)
  | (.ok, s) =>
    if cut = some .cut3 then volatileReset s
    else flDone (s.setFlash { s.flash with
      cursor := (s.flash.cursor + 1) % capacity s.cfg, nextSeq := s.flash.nextSeq + 1, phase := .idle })

/-- The body step (rule R342), with cut 2. -/
def appendBody (cut : Option CutPoint) (r : LogRequest) (now : Word) (s : State) : State :=
  match nvmProgram (slotAddr s.cfg s.flash.cursor) (recordBody s.cfg s.flash.nextSeq now r) s with
  | (.fail, s) => flDone (flFail .nvmProgram s)
  | (.ok, s) => if cut = some .cut2 then volatileReset s else appendCommit cut (setPhase .bodyDone s)

/-- The erase step, where one is due (rule R341), with cut 1. -/
def appendErase (cut : Option CutPoint) (r : LogRequest) (now : Word) (s : State) : State :=
  if firstOfSector s.cfg s.flash.cursor then
    match nvmErase (sectorOf s.cfg s.flash.cursor) s with
    | (.fail, s) => flDone (flFail .nvmErase s)
    | (.ok, s) => if cut = some .cut1 then volatileReset s else appendBody cut r now (setPhase .erased s)
  else appendBody cut r now s

/-- `FL_APPEND(code, flags, msg, now)` (rules R340 to R346). A cut is the POWER_LOSS that comes there. -/
def appendRecord (r : LogRequest) (now : Word) (s : State) : State :=
  appendErase (drawCut s).1 r now (flBegin (drawCut s).2)

/-- FL_APPEND (rules R340, R359). -/
def execFlAppend (code flags : Half) (msg : List Byte) (now : Word) (s : State) : Host.Outcome State Fault Refusal :=
  if s.flash.inited then
    if s.flash.cursor < capacity s.cfg then .next (appendRecord ⟨code, flags, msg⟩ now s)
    else .fault (.nvmOutsideRegion s.flash.cursor)
  else .refused .logNotInitialised

/-- LOG_WRITE (rule R350): the head of the queue is removed whatever the outcome. -/
def execLogWrite (now : Word) (s : State) : Host.Outcome State Fault Refusal :=
  if s.flash.inited then
    match s.logq with
    | [] => .refused .logQueueEmpty
    | r :: rest =>
      if s.flash.cursor < capacity s.cfg then .next (appendRecord r now (s.setLogq rest))
      else .fault (.nvmOutsideRegion s.flash.cursor)
  else .refused .logNotInitialised

/-! ## Reading (rules R352 to R358) -/

/-- The records of the slots `ks` while they are VALID, and how the walk ended (rules R352, R358). -/
def readBack : List Nat → State → (Status × List LogRecord) × State
  | [], s => ((.ok, []), s)
  | k :: ks, s =>
    match nvmRead (slotAddr s.cfg k) s.cfg.recordSize s with
    | (none, s) => ((.fail, []), flFail .nvmRead s)
    | (some b, s) =>
      if unpackCommit s.cfg b = s.cfg.commitVal then
        match readBack ks s with
        | ((st, rs), s') => ((st, unpack s.cfg b :: rs), s')
      else ((.ok, []), s)

/-- FL_READ_LAST_N (rules R352, R353, R359). -/
def execFlReadLastN (n maxOut : Half) (s : State) : Host.Outcome State Fault Refusal :=
  if s.flash.inited then
    let lim := min (min n.toNat (capacity s.cfg)) maxOut.toNat
    let r := readBack (slotsBefore s.cfg s.flash.cursor lim) (flBegin s)
    .next (r.2.setResult (.records r.1.1 r.1.2))
  else .refused .logNotInitialised

/-- How many of the slots `ks` are VALID, added to `n`; no count after a failed read (rules R355, R358). -/
def countValid : List Nat → Nat → State → Option Nat × State
  | [], n, s => (some n, s)
  | k :: ks, n, s =>
    match nvmRead (commitAddr s.cfg k) 1 s with
    | (none, s) => (none, flFail .nvmRead s)
    | (some b, s) => countValid ks (if b.getD 0 0 = s.cfg.commitVal then n + 1 else n) s

/-- FL_COUNT_VALID (rules R355, R359). -/
def execFlCountValid (s : State) : Host.Outcome State Fault Refusal :=
  if s.flash.inited then
    let r := countValid (List.range (capacity s.cfg)) 0 (flBegin s)
    .next (r.2.setResult (.validCount r.2.flash.status r.1))
  else .refused .logNotInitialised

/-! ## The record (rule R130) -/

/-- LOG_RECORD: a record image is the layout FL_APPEND writes, not an operation of the block; put to the NVM from
outside it is a write the block does not make, for which a model has no move (rules R11, R87). -/
def execLogRecord (_seq _ms : Word) (_code _flags : Half) (_msg : List Byte) (_commit : Byte) (_s : State) :
    Host.Outcome State Fault Refusal :=
  .refused .foreignRecord

end Sys2Proof.Machine
end

