-- ==== Sys2Proof/Machine/Latch.lean ====
section
/-! DEFINITION. The latch reset and force actions: BTN_EDGE, REQ_RESET, REQ_FORCE, DO_RESET, DO_FORCE (spec
43_latch_actions.md). -/

namespace Sys2Proof.Machine

/-- BTN_EDGE (rule R256). -/
def execBtnEdge (now : Word) (s : State) : Host.Outcome State Fault Refusal :=
  done .nothing (if btnAccepted s.cfg now s.signals then
      s.setSignals { s.signals with resetPending := true, btnSeen := true, btnLastMs := now }
    else s)

/-- REQ_RESET (rule R254). -/
def execReqReset (s : State) : Host.Outcome State Fault Refusal :=
  done .nothing (s.setSignals { s.signals with resetPending := true })

/-- REQ_FORCE (rule R255). -/
def execReqForce (s : State) : Host.Outcome State Fault Refusal :=
  done .nothing (s.setSignals { s.signals with forcePending := true })

/-- DO_RESET (rule R257): enabled while a reset is pending. -/
def execDoReset (s : State) : Host.Outcome State Fault Refusal :=
  if s.signals.resetPending then
    done .nothing (clearSafetyFaults (s.setSignals { s.signals with resetPending := false }))
  else .refused .noPendingReset

/-- DO_FORCE (rule R258): enabled while a force is pending. -/
def execDoForce (s : State) : Host.Outcome State Fault Refusal :=
  if s.signals.forcePending then
    done .nothing (latchSequence .fault (laserDisable (latchFault (forceError
      (s.setSignals { s.signals with forcePending := false })))))
  else .refused .noPendingForce

end Sys2Proof.Machine
end

