-- ==== Sys2Proof/Machine/Links.lean ====
section
/-! DEFINITION. FrameParser and LinkDriver: FP_FEED, LD_RX_BYTE, LD_POLL, LD_SEND, LD_WRITE_U16, LD_READ_U16 (spec
45_frame_parser.md, 46_link_driver.md), and the four frames of rule R120 arriving at a UART. -/

namespace Sys2Proof.Machine

/-- FP_FEED (rule R286). -/
def execFpFeed (link b : Byte) (s : State) : Host.Outcome State Fault Refusal :=
  onLink link s fun l =>
    done (.frame (fpFeed s.cfg (roleOf s.cfg link.toNat) b l).2)
      (s.setLink link.toNat (fpFeed s.cfg (roleOf s.cfg link.toNat) b l).1)

/-- LD_RX_BYTE (rule R311), applied by the RxProducer (rule R322). -/
def execLdRxByte (link b : Byte) (s : State) : Host.Outcome State Fault Refusal :=
  onLink link s fun l =>
    match claimRing .driver l with
    | none => .refused .secondProducer
    | some l => done .nothing (s.setLink link.toNat (rxByte s.cfg b l))

/-- LD_POLL (rule R312), applied by the LinkConsumer (rule R322). -/
def execLdPoll (link : Byte) (s : State) : Host.Outcome State Fault Refusal :=
  onLink link s fun l =>
    match claimRing .driver l with
    | none => .refused .secondConsumer
    | some l =>
      let r := pollLink s.cfg (roleOf s.cfg link.toNat) l
      done .nothing ((s.setLink link.toNat r.1).emitAll r.2)

/-! ## Sending (rules R318 to R321) -/

/-- Build a frame, transmit it, report the result: the body of LD_SEND. -/
def sendFrame (cmd var : Byte) (value : Option Half) (s : State) : State :=
  let bytes := frameBytes s.cfg cmd var value
  let r := (drawTx s).1
  let s' := (drawTx s).2.emit (.tx bytes r)
  (match r with
    | .ok => s'
    | .timeout => raiseCondition (.ioError .txTimeout) s').setResult (.sent r)

/-- LD_SEND (rule R318). -/
def execLdSend (link cmd var : Byte) (hasValue : Bool) (value : Half) (s : State) :
    Host.Outcome State Fault Refusal :=
  onLink link s fun _ =>
    if sendable s.cfg cmd hasValue then .next (sendFrame cmd var (valuePart hasValue value) s)
    else .refused .notASendableFrame

/-- LD_WRITE_U16 (rule R319): LD_SEND(CMD_WRITE, var, 1, value). -/
def execLdWriteU16 (link var : Byte) (value : Half) (s : State) : Host.Outcome State Fault Refusal :=
  onLink link s fun _ => .next (sendFrame s.cfg.cmdWrite var (some value) s)

/-- LD_READ_U16 (rule R320): LD_SEND(CMD_READ, var, 0, 0). -/
def execLdReadU16 (link var : Byte) (s : State) : Host.Outcome State Fault Refusal :=
  onLink link s fun _ => .next (sendFrame s.cfg.cmdRead var none s)

/-! ## Bytes arriving at a UART -/

/-- Bytes arrive at the UART of `link`: LD_RX_BYTE of each in order, then one LD_POLL. What the link
makes of them is what its parser, its role and its ring buffer make of them (rules R122, R312, R313). DESIGN CHOICE
(log entry 7): the schedule is that of rule R312's example. -/
def receiveFrame (link : Byte) (bytes : List Byte) (s : State) : Host.Outcome State Fault Refusal :=
  onLink link s fun l =>
    match claimRing .driver l with
    | none => .refused .secondProducer
    | some l =>
      let r := pollLink s.cfg (roleOf s.cfg link.toNat) (bytes.foldl (fun l b => rxByte s.cfg b l) l)
      done .nothing ((s.setLink link.toNat r.1).emitAll r.2)

/-- FRAME_READ_REQ (rules R120, R316). -/
def execFrameReadReq (link var : Byte) (s : State) : Host.Outcome State Fault Refusal :=
  receiveFrame link (frameBytes s.cfg s.cfg.cmdRead var none) s

/-- FRAME_READ_REPLY (rules R120, R315). -/
def execFrameReadReply (link var : Byte) (value : Half) (s : State) : Host.Outcome State Fault Refusal :=
  receiveFrame link (frameBytes s.cfg s.cfg.cmdRead var (some value)) s

/-- FRAME_WRITE (rules R120, R317). -/
def execFrameWrite (link var : Byte) (value : Half) (s : State) : Host.Outcome State Fault Refusal :=
  receiveFrame link (frameBytes s.cfg s.cfg.cmdWrite var (some value)) s

/-- FRAME_ACK (rules R120, R314). -/
def execFrameAck (link var : Byte) (value : Half) (s : State) : Host.Outcome State Fault Refusal :=
  receiveFrame link (frameBytes s.cfg s.cfg.cmdAck var (some value)) s

/-- An input that is no instruction. Bytes at a UART that are none of the four frames reach the block as all bytes do
and are discarded by the parser or kept for the frame they begin (rules R128, R286, R311); anything else is refused
(rules R87, R142; U17, U18, U19). -/
def receiveUndecoded (e : DecodeError) (x : Input) (s : State) : Host.Outcome State Fault Refusal :=
  match e, x.port with
  | .notAFrame, .uart link => receiveFrame link x.bytes s
  | _, _ => .refused (.undecodable e)

end Sys2Proof.Machine
end

