-- ==== Sys2Proof/Machine/Reset.lean ====
section
/-! DEFINITION. COLD_RESET and POWER_LOSS (spec 70_reset_and_hazards.md). -/

namespace Sys2Proof.Machine

/-- COLD_RESET (rule R430): the volatile state as rule R64 has it; no event, no latch sequence, no transaction. -/
def execColdReset (s : State) : Host.Outcome State Fault Refusal := .next (volatileReset s)

/-- POWER_LOSS between two operations (rule R431): as COLD_RESET. The cuts inside an FL_APPEND are in FlashOps.lean. -/
def execPowerLoss (s : State) : Host.Outcome State Fault Refusal := .next (volatileReset s)

end Sys2Proof.Machine
end

