-- ==== Sys2Proof/Machine/Ring.lean ====
section
/-! DEFINITION. RingBuffer driven directly by the Host: RB_PUT, RB_GET, RB_WRITE (spec 44_ring_buffer.md). -/

namespace Sys2Proof.Machine

/-- RB_PUT (rule R271). -/
def execRbPut (link b : Byte) (s : State) : Host.Outcome State Fault Refusal :=
  onLink link s fun l =>
    match claimRing .direct l with
    | none => .refused .secondProducer
    | some l => done (.accepted (ringPut s.cfg b l).2) (s.setLink link.toNat (ringPut s.cfg b l).1)

/-- RB_GET (rule R272). -/
def execRbGet (link : Byte) (s : State) : Host.Outcome State Fault Refusal :=
  onLink link s fun l =>
    match claimRing .direct l with
    | none => .refused .secondConsumer
    | some l => done (.byte (ringGet s.cfg l).2) (s.setLink link.toNat (ringGet s.cfg l).1)

/-- RB_WRITE (rule R273). -/
def execRbWrite (link : Byte) (bytes : List Byte) (s : State) : Host.Outcome State Fault Refusal :=
  onLink link s fun l =>
    match claimRing .direct l with
    | none => .refused .secondProducer
    | some l => done (.count (ringWrite s.cfg bytes l).2) (s.setLink link.toNat (ringWrite s.cfg bytes l).1)

end Sys2Proof.Machine
end

