-- ==== Sys2Proof/Machine/Scan.lean ====
section
/-! DEFINITION. InputScanner and FaultRuleEngine: SCAN_START, SCAN_TICK with its debouncing, its ready update and the
five evaluators (spec 40_input_debounce.md, 41_fault_rules.md). -/

namespace Sys2Proof.Machine

/-! ## Debouncing (rules R172 to R176) -/

/-- What this sample does to input `i`. -/
def debounceAt (raw : List Byte) (s : State) (i : Nat) : Bool × Nat × Bool :=
  debounceOne s.cfg.debounceN (rawBit raw i) (s.st i) (s.cnt i)

/-- The CHANGE events of one sample, in ascending input id (rule R174). -/
def changeEvents (raw : List Byte) (s : State) : List Event :=
  (List.range s.cfg.nin).filterMap fun i =>
    if (debounceAt raw s i).2.2 then some (.change i (rawBit raw i)) else none

/-- One sample of every input (rule R172). -/
def debounceAll (raw : List Byte) (s : State) : State :=
  (s.setScan { s.scan with
      st  := (List.range s.cfg.nin).map fun i => (debounceAt raw s i).1
      cnt := (List.range s.cfg.nin).map fun i => (debounceAt raw s i).2.1 }).emitAll (changeEvents raw s)

/-- The ready update (rule R175). -/
def readyUpdate (now : Word) (s : State) : State :=
  s.setScan { s.scan with systemReady := readyAfter s.cfg now s.scan }

/-! ## The evaluators (rules R197, R200, R205, R208, R210) -/

/-- `eval_1(now)`, Door-requires-relays (rule R197). -/
def evalDoorRelay (now : Word) (s : State) : Bool × State :=
  let r := s.rules
  if s.cfg.r1DisarmOnAny && !all4 s then
    (false, s.setRules { r with r1ArmRunning := false, r1Armed := false })
  else if !s.cfg.r1DisarmOnAny && !s.st inDoor then
    (false, s.setRules { r with r1ArmRunning := false, r1Armed := false })
  else if !s.cfg.r1DisarmOnAny && !r.r1Armed && !all4 s then
    (false, s.setRules { r with r1ArmRunning := false })
  else
    let r := armTimer s.cfg now r
    (r.r1Armed && s.st inDoor && (!s.st inRelay1 || !s.st inRelay2), raiseCondition .doorRelay (s.setRules r))

/-- `eval_2(now)`, Relay-contacts-match (rules R200 to R203). -/
def evalContacts (now : Word) (s : State) : Bool × State :=
  if all4 s && bothRelays s then
    let r := settleTimer now s.rules
    let fault := decide (s.cfg.settleMs ≤ elapsed now r.r2SettleT0) && contactMismatch s
    let s' := s.setRules { r with r2Last := fault }
    if fault && (!s.cfg.r2ForceOnEdgeOnly || !s.rules.r2Last) then (fault, raiseCondition .contactMismatch s')
    else (fault, s')
  else (false, s.setRules { s.rules with r2SettleRunning := false, r2Last := false })

/-- `eval_3()`, Latch-error (rules R205, R206). -/
def evalLatchError (s : State) : Bool × State :=
  if (latchErrLine s || s.safety.forceError) && !s.safety.faultLatched then
    (true, raiseCondition .latchError s)
  else (s.safety.faultLatched, s)

/-- `eval_4()`, Power-good (rule R208). -/
def evalPowerGood (s : State) : Bool × State :=
  let s' := s.setRules { s.rules with r4Last := railBad s }
  if railBad s && !s.rules.r4Last then (railBad s, raiseCondition .powerFail s') else (railBad s, s')

/-- `eval_5()`, Temperature-safe (rule R210). -/
def evalTemperature (s : State) : Bool × State := (!s.thermal.bypass && s.thermal.fault, s)

/-- `eval_r(now)`. -/
def evalRule (now : Word) (r : RuleId) (s : State) : Bool × State :=
  match r with
  | .doorRelay => evalDoorRelay now s
  | .contacts => evalContacts now s
  | .latchError => evalLatchError s
  | .powerGood => evalPowerGood s
  | .temperature => evalTemperature s

/-- One rule: its evaluator, then its edge bookkeeping (rule R191). -/
def runRule (now : Word) (r : RuleId) (s : State) : State :=
  reportEdge r (evalRule now r s).1 (evalRule now r s).2

/-- The five rules in their fixed order (rules R191, R192). -/
def runRules (now : Word) (s : State) : State :=
  runRule now .temperature (runRule now .powerGood (runRule now .latchError (runRule now .contacts
    (runRule now .doorRelay s))))

/-- The evaluation part of SCAN_TICK: nothing at all before `system_ready` (rule R191). -/
def evaluate (now : Word) (s : State) : State := if s.scan.systemReady then runRules now s else s

/-! ## The operations -/

/-- SCAN_START (rules R171, R177, R180). -/
def execScanStart (raw : List Byte) (now : Word) (s : State) : Host.Outcome State Fault Refusal :=
  if s.scan.started then .refused .scanAlreadyStarted
  else done .nothing (s.setScan
    ⟨(List.range s.cfg.nin).map (rawBit raw), List.replicate s.cfg.nin 0, true, false, now⟩)

/-- SCAN_TICK (rules R172, R175 to R177, R191). -/
def execScanTick (raw : List Byte) (now : Word) (s : State) : Host.Outcome State Fault Refusal :=
  if s.scan.started then done .nothing (evaluate now (readyUpdate now (debounceAll raw s)))
  else .refused .scanNotStarted

end Sys2Proof.Machine
end

