-- ==== Sys2Proof/Machine/StatusWord.lean ====
section
/-! DEFINITION. StatusWordBuilder: SW_READ (spec 48_status_words.md). -/

namespace Sys2Proof.Machine

/-- `DebugWord()`: the listed bits, and bits 0 to 3 and 12 to 15 free (rules R371, R372). -/
def debugWord (s : State) : Half := debugBits s ||| (Config.freeStatusBits s.draws.count &&& 0xF00F)

/-- `TempByte()` (rule R375): free before the first THERMAL_SAMPLE. -/
def tempByte (s : State) : Byte :=
  match s.thermal.reading with
  | none => Config.freeTempByte s.draws.count
  | some th => roundedTemp th.temp

/-- `ActiveWord()`: the listed bits, bits 6 and 7 free, the temperature byte above (rules R372, R374). -/
def activeWord (s : State) : Half :=
  activeBits s ||| (Config.freeStatusBits s.draws.count &&& 0x00C0) ||| (tempByte s).setWidth 16 <<< 8

/-- SW_READ (rule R378). Each read draws its free bits afresh (rule R372). -/
def execSwRead (var : Byte) (s : State) : Host.Outcome State Fault Refusal :=
  if s.scan.started then
    if var = s.cfg.varStatusDebug then done (.word (debugWord s)) s.countDraw
    else if var = s.cfg.varStatusActive then done (.word (activeWord s)) s.countDraw
    else .refused .variableNotBuilt
  else .refused .scanNotStarted

end Sys2Proof.Machine
end

