-- ==== Sys2Proof/Machine/Thermal.lean ====
section
/-! DEFINITION. ThermalGuard: THERMAL_SAMPLE, SET_BYPASS (spec 42_thermal_guard.md). -/

namespace Sys2Proof.Machine

/-- The hysteresis of one sample (rules R233 to R235). -/
def hysteresis (temp : Half) (fl : Byte) (s : State) : State :=
  if s.thermal.fault then
    if clearCond s.cfg temp fl then (s.setThermal { s.thermal with fault := false }).emit .thermalClear else s
  else if tripCond s.cfg temp fl then raiseCondition (.overUnderTemp temp) s
  else s

/-- Whether a sample only publishes its reading: under the bypass (rule R237), or gated by ready (rule R240). -/
def publishOnly (s : State) : Bool := s.thermal.bypass || s.cfg.thermalGatedByReady && !s.scan.systemReady

/-- Publish the reading (rules R232, R239). -/
def publish (temp : Half) (fl : Byte) (raw32 : Word) (s : State) : State :=
  s.setThermal { s.thermal with reading := some (readingOf s.cfg temp fl raw32) }

/-- THERMAL_SAMPLE (rule R232). -/
def execThermalSample (temp : Half) (fl : Byte) (raw32 : Word) (s : State) : Host.Outcome State Fault Refusal :=
  done .nothing (if publishOnly s then publish temp fl raw32 s else hysteresis temp fl (publish temp fl raw32 s))

/-- SET_BYPASS (rule R238). -/
def execSetBypass (v : Bool) (s : State) : Host.Outcome State Fault Refusal :=
  done .nothing (if v = s.thermal.bypass then s
    else (s.setThermal { s.thermal with bypass := v }).emit (.bypass (if v then .enter else .leave)))

end Sys2Proof.Machine
end

