-- ==== Sys2Proof/Machine/Dispatch.lean ====
section
/-! DEFINITION. The dispatch: one arm for each instruction, each a call of its meaning. -/

namespace Sys2Proof.Machine

def exec (i : Instr) (s : State) : Host.Outcome State Fault Refusal :=
  match i with
  | .frameReadReq link var => Sys2Proof.Machine.execFrameReadReq link var s
  | .frameReadReply link var value => Sys2Proof.Machine.execFrameReadReply link var value s
  | .frameWrite link var value => Sys2Proof.Machine.execFrameWrite link var value s
  | .frameAck link var value => Sys2Proof.Machine.execFrameAck link var value s
  | .logRecord seq ms code flags msg commit => Sys2Proof.Machine.execLogRecord seq ms code flags msg commit s
  | .coldReset => Sys2Proof.Machine.execColdReset s
  | .scanStart raw now => Sys2Proof.Machine.execScanStart raw now s
  | .scanTick raw now => Sys2Proof.Machine.execScanTick raw now s
  | .thermalSample temp fl raw32 => Sys2Proof.Machine.execThermalSample temp fl raw32 s
  | .setBypass v => Sys2Proof.Machine.execSetBypass v s
  | .btnEdge now => Sys2Proof.Machine.execBtnEdge now s
  | .reqReset => Sys2Proof.Machine.execReqReset s
  | .reqForce => Sys2Proof.Machine.execReqForce s
  | .doReset => Sys2Proof.Machine.execDoReset s
  | .doForce => Sys2Proof.Machine.execDoForce s
  | .rbPut link b => Sys2Proof.Machine.execRbPut link b s
  | .rbGet link => Sys2Proof.Machine.execRbGet link s
  | .rbWrite link bytes => Sys2Proof.Machine.execRbWrite link bytes s
  | .fpFeed link b => Sys2Proof.Machine.execFpFeed link b s
  | .ldRxByte link b => Sys2Proof.Machine.execLdRxByte link b s
  | .ldPoll link => Sys2Proof.Machine.execLdPoll link s
  | .ldWriteU16 link var value => Sys2Proof.Machine.execLdWriteU16 link var value s
  | .ldReadU16 link var => Sys2Proof.Machine.execLdReadU16 link var s
  | .ldSend link cmd var hasValue value => Sys2Proof.Machine.execLdSend link cmd var hasValue value s
  | .flInit => Sys2Proof.Machine.execFlInit s
  | .flAppend code flags msg now => Sys2Proof.Machine.execFlAppend code flags msg now s
  | .flReadLastN n maxOut => Sys2Proof.Machine.execFlReadLastN n maxOut s
  | .flCountValid => Sys2Proof.Machine.execFlCountValid s
  | .logWrite now => Sys2Proof.Machine.execLogWrite now s
  | .swRead var => Sys2Proof.Machine.execSwRead var s
  | .powerLoss => Sys2Proof.Machine.execPowerLoss s

end Sys2Proof.Machine
end

