-- ==== Sys2Proof/Machine/TimeBase.lean ====
section
/-! DEFINITION. The premise of rule R4 on the times the environment supplies, whose breach is refused (93, U22), and
which times an operation compares (rules R5, R175, R197, R200, R256). -/

namespace Sys2Proof.Machine

/-- `now_ms` of the operations that read the time (rules R4, R140). -/
def nowOf : Instr → Option Word
  | .scanStart _ now => some now
  | .scanTick _ now => some now
  | .btnEdge now => some now
  | .flAppend _ _ _ now => some now
  | .logWrite now => some now
  | .frameReadReq _ _ => none
  | .frameReadReply _ _ _ => none
  | .frameWrite _ _ _ => none
  | .frameAck _ _ _ => none
  | .logRecord _ _ _ _ _ _ => none
  | .coldReset => none
  | .thermalSample _ _ _ => none
  | .setBypass _ => none
  | .reqReset => none
  | .reqForce => none
  | .doReset => none
  | .doForce => none
  | .rbPut _ _ => none
  | .rbGet _ => none
  | .rbWrite _ _ => none
  | .fpFeed _ _ => none
  | .ldRxByte _ _ => none
  | .ldPoll _ => none
  | .ldWriteU16 _ _ _ => none
  | .ldReadU16 _ _ => none
  | .ldSend _ _ _ _ _ => none
  | .flInit => none
  | .flReadLastN _ _ => none
  | .flCountValid => none
  | .swRead _ => none
  | .powerLoss => none

/-- Half the range of a time. -/
def timeLimit : Nat := 2147483648

/-- Time goes back from `last` to `now`: `now` is less, and not by a wrap of less than half the range (rule R4). How a
decrease is told from a wrap is the model's own. DESIGN CHOICE (log entry 24). -/
def goesBack (now last : Word) : Bool := decide (now.toNat < last.toNat) && decide (timeLimit ≤ elapsed now last)

/-- The start times the rules compare with `now` in an evaluated tick: rule 1's while it arms (rule R197), rule 2's
while it settles or watches (rule R200). `s` holds the snapshot. -/
def timesOfRules (s : State) : List Word :=
  (if s.rules.r1ArmRunning && !s.rules.r1Armed && all4 s then [s.rules.r1ArmT0] else [])
    ++ (if s.rules.r2SettleRunning && all4 s && bothRelays s then [s.rules.r2SettleT0] else [])

/-- The start times a SCAN_TICK compares with `now`: the ready grace's until it has elapsed (rule R175), and those of
the rules once it has (rule R191). -/
def timesOfTick (raw : List Byte) (now : Word) (s : State) : List Word :=
  (if s.scan.systemReady then [] else [s.scan.tStart])
    ++ (let u := readyUpdate now (debounceAll raw s)
        if u.scan.systemReady then timesOfRules u else [])

/-- The times an operation compares its `now_ms` with. -/
def timesCompared (i : Instr) (s : State) : List Word :=
  match i with
  | .scanTick raw now => if s.scan.started then timesOfTick raw now s else []
  | .btnEdge _ => if s.signals.btnSeen then [s.signals.btnLastMs] else []
  | _ => []

/-- The premise of rule R4 on one operation: its time does not go back from that of the last one since reset, and
differs by less than 2^31 ms from every time it is compared with (U22; log entry 12). The difference is taken modulo 2^32:
an operation a whole wrap or more later, 2^32 + k ms with k < 2^31, is taken as k ms later and runs. DESIGN CHOICE (log
entry 24). -/
def timeBaseOk (i : Instr) (s : State) : Bool :=
  match nowOf i with
  | none => true
  | some now =>
    (match s.lastNow with
      | none => true
      | some last => !goesBack now last)
      && (timesCompared i s).all fun t0 => decide (elapsed now t0 < timeLimit)

/-- Note the time of an operation that reads it. -/
def noteTime (i : Instr) (s : State) : State := s.setLastNow ((nowOf i).or s.lastNow)

end Sys2Proof.Machine
end

