-- ==== Sys2Proof/Machine/Step.lean ====
section
/-! DEFINITION. One step: the next input of the environment is taken, decoded, held to the premise on the time base,
and executed (rules R2, R3, R4). -/

namespace Sys2Proof.Machine

/-- With no input the block does nothing (rules R66, R420); an operation that breaks the premise of rule R4 is refused
(U22); what an input does that is no instruction, `receiveUndecoded` says (rules R128, R142). -/
def step (s : State) : Host.Outcome State Fault Refusal :=
  match fetch s with
  | none => .next s
  | some (x, s') =>
    match decodeInput s'.cfg x with
    | .ok i => if timeBaseOk i s' then exec i (noteTime i s') else .refused .timeBaseBroken
    | .error e => receiveUndecoded e x s'

/-- The environment applies, next, the operation whose table bits are `w` (log entry 6). -/
def State.withFetchWord (s : State) (nbits w : Nat) : State :=
  s.setInbox (tableInput s.cfg nbits w :: s.inbox)

end Sys2Proof.Machine
end

