-- ==== Sys2Proof/Safety.lean ====
section
/-! DEFINITION. What the statements speak of: runs of several operations, the reset table of rule R64, the invariants
the spec gives the state, and the spec's own words for the contents of a ring buffer, of a log slot and of a run of
samples. Nothing here is used by the machine. -/

namespace Sys2Proof.Machine

/-! ## Runs -/

/-- The operations of a list one after the other, up to the first that does not answer a next state. -/
def execAll : List Instr → State → Host.Outcome State Fault Refusal
  | [], s => .next s
  | i :: is, s =>
    match exec i s with
    | .next t => execAll is t
    | .fault r => .fault r
    | .refused r => .refused r

/-- A run of scan ticks: raw sample and time of each. -/
def scanTicks (ticks : List (List Byte × Word)) : List Instr := ticks.map fun x => .scanTick x.1 x.2

/-- The agent that applies an operation (the table of rule R3). A whole frame stands for LD_RX_BYTEs of the
RxProducer and one LD_POLL of the LinkConsumer; a record image is nobody's operation. -/
def agentOf : Instr → Agent
  | .scanStart _ _ => .scan
  | .scanTick _ _ => .scan
  | .thermalSample _ _ _ => .thermal
  | .logWrite _ => .logWriter
  | .ldRxByte _ _ => .rxProducer
  | .ldPoll _ => .linkConsumer
  | .frameReadReq _ _ => .linkConsumer
  | .frameReadReply _ _ _ => .linkConsumer
  | .frameWrite _ _ _ => .linkConsumer
  | .frameAck _ _ _ => .linkConsumer
  | .doReset => .resetHandler
  | .doForce => .forceHandler
  | .coldReset => .environment
  | .powerLoss => .environment
  | .logRecord _ _ _ _ _ _ => .environment
  | .setBypass _ => .host
  | .btnEdge _ => .host
  | .reqReset => .host
  | .reqForce => .host
  | .rbPut _ _ => .host
  | .rbGet _ => .host
  | .rbWrite _ _ => .host
  | .fpFeed _ _ => .host
  | .ldWriteU16 _ _ _ => .host
  | .ldReadU16 _ _ => .host
  | .ldSend _ _ _ _ _ => .host
  | .flInit => .host
  | .flAppend _ _ _ _ => .host
  | .flReadLastN _ _ => .host
  | .flCountValid => .host
  | .swRead _ => .host

/-! ## Reset (rule R64) -/

/-- A link as rule R64 has it after a reset: ring buffer empty, parser in WAIT_START, no wake-up, driven by nobody yet. -/
def linkReset (c : Config) (l : Link) : Prop :=
  l.rbHead = 0 ∧ l.rbTail = 0 ∧ l.rbBuf.length = c.rbN ∧ l.fpState = .waitStart ∧ l.fpIdx = 0 ∧ l.fpExpected = 0
    ∧ l.fpBuf.length = c.fpBufLen ∧ l.rxNotify = false ∧ l.user = none

/-- The entries of the table of rule R64 that give a value; `trip_temp` and `th` are none. -/
def resetTable (t : State) : Prop :=
  t.scan.st.length = t.cfg.nin ∧ t.scan.cnt = List.replicate t.cfg.nin 0
    ∧ t.scan.started = false ∧ t.scan.systemReady = false
    ∧ t.active = ⟨false, false, false, false, false⟩
    ∧ t.rules.r1ArmRunning = false ∧ t.rules.r1Armed = false ∧ t.rules.r2SettleRunning = false
    ∧ t.rules.r2Last = false ∧ t.rules.r4Last = false
    ∧ t.safety = ⟨false, false, false⟩
    ∧ t.thermal = ⟨false, none, false, none⟩
    ∧ t.latchQ.length = t.cfg.nLatch
    ∧ t.signals.resetPending = false ∧ t.signals.forcePending = false ∧ t.signals.btnSeen = false
    ∧ t.flash.inited = false ∧ t.flash.phase = .idle ∧ t.flash.status = .ok
    ∧ t.logq = []
    ∧ t.links.length = t.cfg.nLink ∧ ∀ l ∈ t.links, linkReset t.cfg l

/-! ## Invariants -/

/-- The scanner (rules R20, R22, R173): one stable state and one counter below DEBOUNCE_N for each input; ready only
after SCAN_START. -/
def scannerOk (s : State) : Prop :=
  s.scan.st.length = s.cfg.nin ∧ s.scan.cnt.length = s.cfg.nin ∧ (∀ n ∈ s.scan.cnt, n < s.cfg.debounceN)
    ∧ (s.scan.systemReady = true → s.scan.started = true)

/-- `r2_last = active[2]` and `r4_last = active[4]` between operations (rules R36, R209). -/
def edgeMemoryOk (s : State) : Prop := s.rules.r2Last = s.active.contacts ∧ s.rules.r4Last = s.active.powerGood

/-- A ring buffer (rules R50, R270): RB_N bytes, `0 ≤ rb_count ≤ RB_N`. -/
def ringOk (c : Config) (l : Link) : Prop := l.rbBuf.length = c.rbN ∧ ringCount l ≤ c.rbN

/-- A parser between operations (rules R30, R82, R292): what `fp_idx` and `fp_expected` are in each resting state. -/
def parserOk (c : Config) (role : Role) (l : Link) : Prop :=
  l.fpBuf.length = c.fpBufLen ∧
    match l.fpState with
    | .waitStart => l.fpIdx = 0 ∧ l.fpExpected = 0
    | .waitLen => l.fpIdx = 1 ∧ l.fpExpected = 0 ∧ l.fpBuf.getD 0 0 = c.frameStart
    | .accum =>
      2 ≤ l.fpIdx ∧ l.fpIdx < l.fpExpected ∧ l.fpExpected ≤ c.fpBufLen
        ∧ l.fpExpected = frameLen c role (l.fpBuf.getD 1 0) ∧ l.fpBuf.getD 0 0 = c.frameStart

/-- Every link. -/
def linksOk (s : State) : Prop :=
  s.links.length = s.cfg.nLink
    ∧ ∀ k l, s.links[k]? = some l → ringOk s.cfg l ∧ parserOk s.cfg (roleOf s.cfg k) l

/-- While `sw_fault_latched` is 1 the laser is held off and every physical latch is in fault (rules R205, R206,
R258). -/
def latchedSafe (s : State) : Prop :=
  s.safety.faultLatched = true → s.safety.laserLatchedOff = true ∧ ∀ q ∈ s.latchQ, q = false

/-- FlashLog between operations (rule R30): no append in flight, and a cursor that is a slot. -/
def flashOk (s : State) : Prop :=
  s.flash.phase = .idle ∧ (s.flash.inited = true → s.flash.cursor < capacity s.cfg)

/-- The log request queue (rule R45) and the latches (rule R42). -/
def queueOk (s : State) : Prop := s.logq.length ≤ s.cfg.logqDepth ∧ s.latchQ.length = s.cfg.nLatch

/-- The published reading, when there is one, has the range-fault flag of rule R241. -/
def readingOk (s : State) : Prop :=
  ∀ th, s.thermal.reading = some th →
    (th.rangeFault = true ↔ th.temp.toInt > s.cfg.tHighTrip ∨ th.temp.toInt < s.cfg.tLowTrip)

/-- What holds between any two operations. -/
structure Inv (s : State) : Prop where
  scanner : scannerOk s
  edges   : edgeMemoryOk s
  links   : linksOk s
  latched : latchedSafe s
  flash   : flashOk s
  queue   : queueOk s
  reading : readingOk s

/-! ## The ring buffer -/

/-- The bytes queued, oldest first (rule R270). -/
def ringContents (c : Config) (l : Link) : List Byte :=
  (List.range (ringCount l)).map fun i => l.rbBuf.getD (ringIndex c (l.rbTail + BitVec.ofNat 16 i)) 0

/-- An operation on one ring buffer (rule R274). -/
inductive RingOp where
  | put (b : Byte)
  | get
  deriving DecidableEq, Repr

/-- The operation it is on `link`. -/
def RingOp.instr (link : Byte) : RingOp → Instr
  | .put b => .rbPut link b
  | .get => .rbGet link

/-- Run puts and gets on `link`: the bytes the successful puts accepted, the bytes the successful gets returned, and
the state at the end; none if an operation does not answer a next state. -/
def ringTrace (link : Byte) : List RingOp → State → Option (List Byte × List Byte × State)
  | [], s => some ([], [], s)
  | op :: ops, s =>
    match exec (op.instr link) s with
    | .next t =>
      match ringTrace link ops t with
      | some (puts, gets, u) =>
        match op, t.result with
        | .put b, .accepted true => some (b :: puts, gets, u)
        | .get, .byte (some b) => some (puts, b :: gets, u)
        | _, _ => some (puts, gets, u)
      | none => none
    | _ => none

/-! ## The parser -/

/-- FP_FEED of each byte in turn: what each returned, and the state at the end. -/
def feedAll (link : Byte) : List Byte → State → Option (List (Option ProtoFrame) × State)
  | [], s => some ([], s)
  | b :: bs, s =>
    match exec (.fpFeed link b) s with
    | .next t =>
      match feedAll link bs t, t.result with
      | some (fs, u), .frame f => some (f :: fs, u)
      | _, _ => none
    | _ => none

/-- The callbacks of a completed frame (rule R313). -/
def callbacks (c : Config) (f : ProtoFrame) : List Event :=
  .frameRx f ::
    (if f.cmd = c.cmdAck then [.ackRx f.var f.value]
      else if f.cmd = c.cmdRead ∧ f.hasValue = true then [.readDataRx f.var f.value] else [])

/-! ## The log -/

/-- The log request queue after one more request (rule R211). -/
def queued (c : Config) (k : LogKind) (q : List LogRequest) : List LogRequest :=
  if q.length < c.logqDepth then q ++ [logEvent c k] else q

/-- The event of a request that found the queue full (rule R211). -/
def dropped (c : Config) (q : List LogRequest) : List Event := if q.length < c.logqDepth then [] else [.logDropped]

/-- The class of slot `k` (rule R90). -/
def State.slot (s : State) (k : Nat) : SlotClass := slotClass s.cfg (s.nvm.read (commitAddr s.cfg k))

/-- The record slot `k` holds (rule R332). -/
def State.record (s : State) (k : Nat) : LogRecord :=
  unpack s.cfg (s.nvm.readN (slotAddr s.cfg k) s.cfg.recordSize)

/-- `a` is an address of sector `n` (rule R88). -/
abbrev inSector (c : Config) (n a : Nat) : Prop :=
  c.logBase + n * c.sectorSize ≤ a ∧ a < c.logBase + (n + 1) * c.sectorSize

/-- `a` is an address of the body of slot `k` (rule R89). -/
abbrev inBody (c : Config) (k a : Nat) : Prop := slotAddr c k ≤ a ∧ a < slotAddr c k + (12 + c.msgLen)

/-- The 32 body bytes of a record (rule R332). -/
def bodyBytes (c : Config) (seq ms : Word) (code flags : Half) (msg : List Byte) : List Byte :=
  le32 seq ++ le32 ms ++ le16 code ++ le16 flags
    ++ (msg.take c.msgLen ++ List.replicate (c.msgLen - min msg.length c.msgLen) 0)

/-- The transactions of an FL_APPEND at slot `k`, all answered OK (rule R340). -/
def appendOps (c : Config) (k : Nat) (body : List Byte) : List NvmOp :=
  (if k % rps c = 0 then [.erase (k / rps c) .ok] else [])
    ++ [.program (slotAddr c k) body .ok, .program (slotAddr c k + (12 + c.msgLen)) [c.commitVal] .ok]

/-- The same transaction answered FAIL. -/
def NvmOp.failed : NvmOp → NvmOp
  | .erase n _ => .erase n .fail
  | .program a bs _ => .program a bs .fail
  | .read a n _ => .read a n .fail

/-- How many transactions an FL_APPEND at slot `k` issues. -/
def appendCount (c : Config) (k : Nat) : Nat := if k % rps c = 0 then 3 else 2

/-- The byte at `a` after the erase step of an FL_APPEND at slot `k` (rule R341). -/
def afterErase (s : State) (k a : Nat) : Byte :=
  if k % rps s.cfg = 0 ∧ inSector s.cfg (k / rps s.cfg) a then s.cfg.erased else s.nvm.read a

/-- No cut comes in the next FL_APPEND: none is drawn, or cut 1 is and no erase is due. -/
def uncut (s : State) : Prop :=
  s.draws.cutAnswer = none ∨ s.draws.cutAnswer = some .cut1 ∧ s.flash.cursor % rps s.cfg ≠ 0

/-- What a failed program leaves in a byte: each bit unchanged or programmed (rule R84). -/
def halfDone (old new now : Byte) : Prop :=
  ∀ i, i < 8 → now.getLsbD i = old.getLsbD i ∨ now.getLsbD i = (old.getLsbD i && new.getLsbD i)

/-- The draws after the next `n` NVM transactions. -/
def Draws.afterNvms : Nat → Draws → Draws
  | 0, d => d
  | n + 1, d => Draws.afterNvms n d.afterNvm

/-- The environment answers the next `n` NVM transactions with OK. -/
def nvmAllOk (n : Nat) (d : Draws) : Prop := ∀ k < n, (d.afterNvms k).nvmAnswer = .ok

/-- Step 1 of FL_INIT (rule R336): `c` is the first EMPTY slot, or 0 when there is none. -/
def isRecoveredCursor (s : State) (c : Nat) : Prop :=
  (c < capacity s.cfg ∧ s.slot c = .empty ∧ ∀ k < c, s.slot k ≠ .empty)
    ∨ (c = 0 ∧ ∀ k < capacity s.cfg, s.slot k ≠ .empty)

/-- Step 2 of FL_INIT (rule R337): `q` is one more than the number in the first VALID slot going backward from `c`,
wrapping, over at most CAPACITY slots, or 1 when there is none. -/
def isRecoveredSeq (s : State) (c : Nat) (q : Word) : Prop :=
  (∃ d, 1 ≤ d ∧ d ≤ capacity s.cfg ∧ s.slot (slotBack s.cfg c d) = .valid
      ∧ (∀ e, 1 ≤ e → e < d → s.slot (slotBack s.cfg c e) ≠ .valid)
      ∧ q = (s.record (slotBack s.cfg c d)).seq + 1)
    ∨ (q = 1 ∧ ∀ d, 1 ≤ d → d ≤ capacity s.cfg → s.slot (slotBack s.cfg c d) ≠ .valid)

/-- The erases in a list of transactions. -/
def erasedSectors (ops : List NvmOp) : List Nat :=
  ops.filterMap fun
    | .erase n _ => some n
    | _ => none

/-- A read transaction. -/
def NvmOp.isRead : NvmOp → Bool
  | .read _ _ _ => true
  | _ => false

/-! ## Events -/

/-- The CHANGE events in a list of events. -/
def Event.isChange : Event → Bool
  | .change _ _ => true
  | _ => false

/-- The CHANGE events of one input. -/
def Event.isChangeOf (i : Nat) : Event → Bool
  | .change j _ => j == i
  | _ => false

/-- The RULE events. -/
def Event.isRule : Event → Bool
  | .rule _ _ => true
  | _ => false

/-! ## The thermal guard -/

/-- A temperature outside [T_LOW_TRIP, T_HIGH_TRIP] (rule R243). -/
def outsideTrip (c : Config) (t : Half) : Prop := c.tHighTrip < t.toInt ∨ t.toInt < c.tLowTrip

/-- A temperature strictly inside (T_LOW_CLEAR, T_HIGH_CLEAR) (rule R243). -/
def insideClear (c : Config) (t : Half) : Prop := c.tLowClear < t.toInt ∧ t.toInt < c.tHighClear

end Sys2Proof.Machine
end

