-- ==== Sys2Proof/Certificates/Slice0/Obligations.lean ====
section
/-! DEFINITION. The statements for the provers. Each docstring names the rules of spec/ the statement formalises; a
statement over every state holds in states that no run reaches, under the premises it names. In all of them the
fields `result` (log entry 11), `draws` (entry 3), `inbox` (entry 6), `user` (entry 8) and `lastNow` (entry 12) are
the model's own: what is said of them is said of the model, not of the spec. -/

open Sys2Proof Sys2Proof.Machine

/-! ## The step, the encoding -/

/-- One step takes the next input, decodes it and executes what it decodes to (rules R2, R3, R140), where its time meets
the premise of rule R4: it does not go back from that of the last operation, and is less than 2^31 ms from every time it
is compared with, modulo 2^32 (log entry 24); otherwise it is refused (93, U22; log entry 12). An input at the command port or the NVM that is no
operation is refused (R142); with no input nothing happens (R66, R420; log entries 6 and 15). -/
def Obligations.StepRunsDecodedInstruction : Prop :=
  ∀ s : State,
    (∀ x rest i, s.inbox = x :: rest → decodeInput s.cfg x = .ok i →
      let s' : State := { s with inbox := rest }
      let premise : Prop := ∀ now, nowOf i = some now →
        (∀ last, s.lastNow = some last → ¬(now.toNat < last.toNat ∧ 2 ^ 31 ≤ (now - last).toNat))
        ∧ ∀ t0 ∈ timesCompared i s', (now - t0).toNat < 2 ^ 31
      (premise → step s = exec i { s' with lastNow := (nowOf i).or s.lastNow })
      ∧ (¬premise → step s = .refused .timeBaseBroken))
    ∧ (∀ x rest e, s.inbox = x :: rest → decodeInput s.cfg x = .error e →
        e ≠ .notAFrame ∨ (∀ link, x.port ≠ .uart link) → step s = .refused (.undecodable e))
    ∧ (s.inbox = [] → step s = .next s)

/-- Rule R142: an operation word that is not the opcode and operands of an operation of rule R140 is refused. -/
def Obligations.MalformedOperationWordIsRefused : Prop :=
  ∀ (s : State) (bytes : List Byte) (rest : List Input),
    s.inbox = ⟨.command, bytes⟩ :: rest →
    (∀ i : Instr, i.wellFormed s.cfg = true → i.port = .command → encodeBytes s.cfg i ≠ bytes) →
    ∃ e, step s = .refused (.undecodable e)

/-- The decoder reads every well-formed instruction back from its encoding, in every configuration rule R6 admits. -/
def Obligations.EncodedInstructionDecodesBack : Prop :=
  ∀ (c : Config) (i : Instr), c.wf = true → i.wellFormed c = true → decodeInput c (encode c i) = .ok i

/-- What the decoder accepts is well formed and is exactly the encoding of what it reads: no two inputs are read as the
same instruction, and no bit of an input is dropped. -/
def Obligations.DecodedInputEncodesBack : Prop :=
  ∀ (c : Config) (x : Input) (i : Instr), decodeInput c x = .ok i → i.wellFormed c = true ∧ encode c i = x

/-- A few words written out from rule R140, rule R120 and the examples of the spec decode to what they stand for. -/
def Obligations.SpecWordsDecode : Prop :=
  decodeInput Config.default ⟨.command, [0x01, 0x05, 0x00, 0x64, 0x00, 0x00, 0x00]⟩ = .ok (.scanStart [0x05, 0x00] 100)
  ∧ decodeInput Config.default ⟨.command, [0x03, 0xF1, 0x00, 0x00, 0x78, 0x56, 0x34, 0x12]⟩
      = .ok (.thermalSample 241 0 0x12345678)
  ∧ decodeInput Config.default ⟨.command, [0x22, 0x00, 0x04, 0x34, 0x12]⟩ = .ok (.ldWriteU16 0 4 0x1234)
  ∧ decodeInput Config.default ⟨.command, [0x31, 0x03, 0x00, 0x00, 0x80, 0x02, 0x4F, 0x4B, 0x40, 0xE2, 0x01, 0x00]⟩
      = .ok (.flAppend 3 0x8000 [0x4F, 0x4B] 123456)
  ∧ decodeInput Config.default ⟨.uart 0, [0xAA, 0x02, 0x04, 0x34, 0x12, 0x55]⟩ = .ok (.frameWrite 0 4 0x1234)
  ∧ decodeInput Config.default ⟨.uart 0, [0xAA, 0x01, 0x06, 0x55]⟩ = .ok (.frameReadReq 0 6)
  ∧ decodeInput Config.default ⟨.command, [0x0A]⟩ = .error (.unknownOpcode 0x0A)
  ∧ decodeInput Config.default ⟨.command, [0x04, 0x02]⟩ = .error (.badOperands 0x04)
  ∧ decodeInput Config.default ⟨.command, [0x21, 0x01]⟩ = .error (.noSuchLink 0x01)

/-! ## Reset -/

/-- Rules R430, R431, R432, R64: COLD_RESET, and POWER_LOSS between two operations, give every volatile element its
reset value and touch neither the NVM nor the traces. The latches are drawn: only their number is stated. (What the
model gives the elements that hold nothing after reset is its own choice, log entry 1, and is not stated; that the
three software flags are 0 is log entry 17.) -/
def Obligations.ResetGivesResetTable : Prop :=
  ∀ (s : State) (i : Instr), i = .coldReset ∨ i = .powerLoss →
    ∃ t, exec i s = .next t ∧ resetTable t ∧ t.cfg = s.cfg ∧ t.nvm = s.nvm ∧ t.events = s.events
      ∧ t.nvmOps = s.nvmOps ∧ t.inbox = s.inbox

/-- The machine after reset has the table of rule R64, and every invariant of these statements holds of it. (That the
three software flags are 0 is log entry 17; that the configuration is the default one, with the values rule R6 leaves
open, is log entry 2.) -/
def Obligations.ResetStateMeetsInvariants : Prop :=
  resetTable State.reset ∧ State.reset.cfg = Config.default ∧ State.reset.cfg.wf = true ∧ 2 ≤ State.reset.cfg.fpBufLen
    ∧ Inv State.reset ∧ State.reset.nvm.wf

/-! ## InputScanner -/

/-- Rules R171, R180: SCAN_START takes the first raw read, zeroes the counters and starts the ready grace; it emits
nothing (R180, which the spec derives from R171) and changes nothing else; after a SCAN_START it is refused (R177). -/
def Obligations.ScanStartTakesFirstRead : Prop :=
  ∀ (s : State) (raw : List Byte) (now : Word),
    (s.scan.started = false →
      exec (.scanStart raw now) s = .next { s with
        scan   := ⟨(List.range s.cfg.nin).map fun i => (raw.getD (i / 8) 0).getLsbD (i % 8),
                    List.replicate s.cfg.nin 0, true, false, now⟩
        result := .nothing })
    ∧ (s.scan.started = true → exec (.scanStart raw now) s = .refused .scanAlreadyStarted)

/-- Rule R177 (and R378 of SW_READ): what is refused before SCAN_START, and SCAN_START after it. -/
def Obligations.ScanOrderIsEnforced : Prop :=
  ∀ (s : State) (raw : List Byte) (now : Word),
    (s.scan.started = false → exec (.scanTick raw now) s = .refused .scanNotStarted)
    ∧ (s.scan.started = false → ∀ var, exec (.swRead var) s = .refused .scanNotStarted)
    ∧ (s.scan.started = true → exec (.scanStart raw now) s = .refused .scanAlreadyStarted)

/-- Rules R172, R173, R174: what one SCAN_TICK does to each input, and its CHANGE events, each once, before every other
event of the tick. Their order among themselves is not stated (rule R174). -/
def Obligations.ScanTickDebouncesEveryInput : Prop :=
  ∀ (s : State) (raw : List Byte) (now : Word), s.scan.started = true →
    ∃ t, exec (.scanTick raw now) s = .next t
      ∧ (∀ i < s.cfg.nin,
          (rawBit raw i = s.st i → t.st i = s.st i ∧ t.cnt i = 0)
          ∧ (rawBit raw i ≠ s.st i → s.cnt i + 1 ≠ s.cfg.debounceN → t.st i = s.st i ∧ t.cnt i = s.cnt i + 1)
          ∧ (rawBit raw i ≠ s.st i → s.cnt i + 1 = s.cfg.debounceN → t.st i = rawBit raw i ∧ t.cnt i = 0))
      ∧ ∃ changes others, t.events = s.events ++ changes ++ others
          ∧ changes.Nodup
          ∧ (∀ e, e ∈ changes ↔ ∃ i < s.cfg.nin, rawBit raw i ≠ s.st i ∧ s.cnt i + 1 = s.cfg.debounceN
              ∧ e = .change i (rawBit raw i))
          ∧ ∀ e ∈ others, e.isChange = false

/-- Rule R175, and the part of rule R191 before `system_ready`: the flag is set once the grace has elapsed and stays;
while it is 0 the tick does nothing but debounce. -/
def Obligations.ScanTickIsSuppressedUntilReady : Prop :=
  ∀ (s : State) (raw : List Byte) (now : Word), s.scan.started = true →
    ∃ t, exec (.scanTick raw now) s = .next t
      ∧ t.scan.started = true ∧ t.scan.tStart = s.scan.tStart
      ∧ (t.scan.systemReady = true ↔ s.scan.systemReady = true ∨ s.cfg.readyMs ≤ (now - s.scan.tStart).toNat)
      ∧ (t.scan.systemReady = false →
          ∃ changes, (∀ e ∈ changes, e.isChange = true)
            ∧ t = { s with scan := t.scan, events := s.events ++ changes, result := .nothing })

/-- Rule R178: over any run of ticks, an input that agrees with its stable state at least once in every DEBOUNCE_N
consecutive samples never changes, and an input held at the other value for DEBOUNCE_N samples changes exactly once. -/
def Obligations.DebounceLaw : Prop :=
  ∀ (s : State) (i : Nat) (ticks : List (List Byte × Word)),
    s.scan.started = true → i < s.cfg.nin → s.cnt i = 0 → 0 < s.cfg.debounceN →
    ((∀ a w b, ticks = a ++ w ++ b → w.length = s.cfg.debounceN → ∃ x ∈ w, rawBit x.1 i = s.st i) →
      ∃ t, execAll (scanTicks ticks) s = .next t ∧ t.st i = s.st i
        ∧ t.events.countP (Event.isChangeOf i) = s.events.countP (Event.isChangeOf i))
    ∧ (∀ v, v ≠ s.st i → (∀ x ∈ ticks, rawBit x.1 i = v) → s.cfg.debounceN ≤ ticks.length →
      ∃ t, execAll (scanTicks ticks) s = .next t ∧ t.st i = v
        ∧ t.events.countP (Event.isChangeOf i) = s.events.countP (Event.isChangeOf i) + 1)

/-! ## FaultRuleEngine. In each, `t` is the state after an evaluated tick; its inputs are the snapshot (R106). -/

/-- Rule R197: rule 1, Door-requires-relays, at an evaluated tick. -/
def Obligations.RuleOneDoorRequiresRelays : Prop :=
  ∀ (s : State) (raw : List Byte) (now : Word), s.scan.started = true →
    (s.scan.systemReady = true ∨ s.cfg.readyMs ≤ elapsed now s.scan.tStart) →
    ∃ t, exec (.scanTick raw now) s = .next t
      ∧ (let all4 := t.st inDoor && t.st inEstop && t.st inKey && t.st inBdo
         let relayOff := !t.st inRelay1 || !t.st inRelay2
         let t0 := if s.rules.r1ArmRunning then s.rules.r1ArmT0 else now
         ((if s.cfg.r1DisarmOnAny then all4 = false else t.st inDoor = false) →
            t.rules.r1ArmRunning = false ∧ t.rules.r1Armed = false ∧ t.rules.r1ArmT0 = s.rules.r1ArmT0
              ∧ t.active.doorRelay = false)
         ∧ (s.cfg.r1DisarmOnAny = false → t.st inDoor = true → s.rules.r1Armed = false → all4 = false →
            t.rules.r1ArmRunning = false ∧ t.rules.r1Armed = false ∧ t.rules.r1ArmT0 = s.rules.r1ArmT0
              ∧ t.active.doorRelay = false)
         ∧ (s.rules.r1Armed = false → all4 = true →
            t.rules.r1ArmRunning = true ∧ t.rules.r1ArmT0 = t0
              ∧ t.rules.r1Armed = decide (s.cfg.armMs ≤ (now - t0).toNat)
              ∧ t.active.doorRelay = (decide (s.cfg.armMs ≤ (now - t0).toNat) && relayOff))
         ∧ (s.rules.r1Armed = true → (if s.cfg.r1DisarmOnAny then all4 = true else t.st inDoor = true) →
            t.rules.r1ArmRunning = s.rules.r1ArmRunning ∧ t.rules.r1ArmT0 = s.rules.r1ArmT0
              ∧ t.rules.r1Armed = true ∧ t.active.doorRelay = relayOff))

/-- Rule R198: from an unarmed rule 1, while the four primary safeties are never all true at an evaluated tick, rule 1
reports no fault whatever the relays do, for either value of R1_DISARM_ON_ANY. -/
def Obligations.RuleOneNeverFaultsWithSafetiesOff : Prop :=
  ∀ (s : State) (ticks : List (List Byte × Word)),
    s.scan.started = true → s.rules.r1Armed = false → s.active.doorRelay = false →
    (∀ a b u, ticks = a ++ b → a ≠ [] → execAll (scanTicks a) s = .next u → u.scan.systemReady = true →
      (u.st inDoor && u.st inEstop && u.st inKey && u.st inBdo) = false) →
    ∃ t, execAll (scanTicks ticks) s = .next t ∧ t.active.doorRelay = false
      ∧ ∃ new, t.events = s.events ++ new ∧ .rule .doorRelay .activate ∉ new

/-- Rules R200, R201, R202, R203: rule 2, Relay-contacts-match, at an evaluated tick. -/
def Obligations.RuleTwoRelayContactsMatch : Prop :=
  ∀ (s : State) (raw : List Byte) (now : Word), s.scan.started = true →
    (s.scan.systemReady = true ∨ s.cfg.readyMs ≤ elapsed now s.scan.tStart) →
    ∃ t, exec (.scanTick raw now) s = .next t
      ∧ (let watched := (t.st inDoor && t.st inEstop && t.st inKey && t.st inBdo) && (t.st inRelay1 && t.st inRelay2)
         let t0 := if s.rules.r2SettleRunning then s.rules.r2SettleT0 else now
         (watched = false →
            t.rules.r2SettleRunning = false ∧ t.rules.r2SettleT0 = s.rules.r2SettleT0 ∧ t.active.contacts = false)
         ∧ (watched = true →
            t.rules.r2SettleRunning = true ∧ t.rules.r2SettleT0 = t0
              ∧ (t.active.contacts = true ↔ s.cfg.settleMs ≤ (now - t0).toNat
                  ∧ ∃ k < s.cfg.nContact, t.st (9 + 2 * k) = false ∨ t.st (10 + 2 * k) = true))
         ∧ t.rules.r2Last = t.active.contacts
         ∧ (t.active.contacts = true → s.cfg.r2ForceOnEdgeOnly = false ∨ s.rules.r2Last = false →
            t.safety.forceError = true))

/-- Rules R205, R206, R207: rule 3, Latch-error, at an evaluated tick. It sees the force flag rule 2 sets in the same
tick (R192), and its result is the sticky flag. -/
def Obligations.RuleThreeLatchError : Prop :=
  ∀ (s : State) (raw : List Byte) (now : Word), s.scan.started = true →
    (s.scan.systemReady = true ∨ s.cfg.readyMs ≤ elapsed now s.scan.tStart) →
    ∃ t, exec (.scanTick raw now) s = .next t
      ∧ (let byRule2 := t.active.contacts && (!s.cfg.r2ForceOnEdgeOnly || !s.rules.r2Last)
         let raw3 := (∃ j < s.cfg.nLatchErr, t.st (9 + 2 * s.cfg.nContact + j) = true)
            ∨ s.safety.forceError = true ∨ byRule2 = true
         (raw3 → s.safety.faultLatched = false →
            t.safety.faultLatched = true ∧ t.safety.laserLatchedOff = true
              ∧ t.latchQ = List.replicate s.cfg.nLatch false ∧ .latchSeq .fault ∈ t.events.drop s.events.length)
         ∧ (¬raw3 ∨ s.safety.faultLatched = true →
            t.safety.faultLatched = s.safety.faultLatched ∧ t.latchQ = s.latchQ
              ∧ ∀ x, .latchSeq x ∉ t.events.drop s.events.length)
         ∧ t.active.latchError = t.safety.faultLatched)

/-- Rules R208, R209: rule 4, Power-good, at an evaluated tick. -/
def Obligations.RuleFourPowerGood : Prop :=
  ∀ (s : State) (raw : List Byte) (now : Word), s.scan.started = true →
    (s.scan.systemReady = true ∨ s.cfg.readyMs ≤ elapsed now s.scan.tStart) →
    ∃ t, exec (.scanTick raw now) s = .next t
      ∧ (t.active.powerGood = true ↔ t.st inV12 = false ∨ t.st inV24 = false ∨ t.st inFuse12 = false)
      ∧ t.rules.r4Last = t.active.powerGood
      ∧ (t.active.powerGood = true → s.rules.r4Last = false →
          t.safety.forceError = true ∧ t.safety.laserLatchedOff = true
            ∧ ∃ q, t.logq = queued s.cfg .power q ∧ s.logq <+: q)

/-- Rule R210: rule 5, Temperature-safe, at an evaluated tick. -/
def Obligations.RuleFiveTemperatureSafe : Prop :=
  ∀ (s : State) (raw : List Byte) (now : Word), s.scan.started = true →
    (s.scan.systemReady = true ∨ s.cfg.readyMs ≤ elapsed now s.scan.tStart) →
    ∃ t, exec (.scanTick raw now) s = .next t
      ∧ (t.active.temperature = true ↔ s.thermal.bypass = false ∧ s.thermal.fault = true)
      ∧ t.thermal = s.thermal

/-- Rules R193, R195: the RULE events of an evaluated tick are the edges of the five flags, in rule order. -/
def Obligations.RuleEventsAreEdgesInRuleOrder : Prop :=
  ∀ (s : State) (raw : List Byte) (now : Word), s.scan.started = true →
    (s.scan.systemReady = true ∨ s.cfg.readyMs ≤ elapsed now s.scan.tStart) →
    ∃ t new, exec (.scanTick raw now) s = .next t ∧ t.events = s.events ++ new
      ∧ new.filter Event.isRule =
        ([.doorRelay, .contacts, .latchError, .powerGood, .temperature] : List RuleId).filterMap fun r =>
          if s.active.get r = t.active.get r then none
          else some (.rule r (if t.active.get r then .activate else .clear))

/-- The frame of an evaluated SCAN_TICK: the three software flags are set by rules 2, 3 and 4 only and cleared by none
(R40), the log requests are those of rules 3 and 4 (R211, R213), and everything outside the scanner, the engine, the
flags, the latches, the queue and the trace is unchanged. -/
def Obligations.ScanTickFrame : Prop :=
  ∀ (s : State) (raw : List Byte) (now : Word), s.scan.started = true →
    (s.scan.systemReady = true ∨ s.cfg.readyMs ≤ elapsed now s.scan.tStart) →
    ∃ t, exec (.scanTick raw now) s = .next t
      ∧ (let act2 := t.active.contacts && (!s.cfg.r2ForceOnEdgeOnly || !s.rules.r2Last)
         let act3 := t.safety.faultLatched && !s.safety.faultLatched
         let act4 := t.active.powerGood && !s.rules.r4Last
         let q := if act3 then queued s.cfg .latch s.logq else s.logq
         t = { s with
            scan   := t.scan
            active := t.active
            rules  := t.rules
            safety := ⟨s.safety.forceError || act2 || act4, s.safety.faultLatched || act3,
                        s.safety.laserLatchedOff || act3 || act4⟩
            latchQ := if act3 then List.replicate s.cfg.nLatch false else s.latchQ
            logq   := if act4 then queued s.cfg .power q else q
            events := t.events
            result := .nothing })

/-- Rule R450, a hazard the model must reproduce: after DO_RESET with rule 4 already active, no latch-error line and
the primary safeties not all true, ticks whose samples show no change leave the laser enabled and the latches armed
while rule 4 stays reported active. -/
def Obligations.ResetDuringPowerFaultLeavesLaserOn : Prop :=
  ∀ (s : State) (ticks : List (List Byte × Word)),
    s.scan.started = true → s.scan.systemReady = true → s.signals.resetPending = true →
    s.rules.r4Last = true → s.active.powerGood = true → s.st inV24 = false →
    (∀ j < s.cfg.nLatchErr, s.st (9 + 2 * s.cfg.nContact + j) = false) → s.st inDoor = false →
    (inV24 < s.cfg.nin) →
    (∀ x ∈ ticks, ∀ i < s.cfg.nin, rawBit x.1 i = s.st i) →
    ∃ t, execAll (.doReset :: scanTicks ticks) s = .next t ∧ t.active.powerGood = true
      ∧ t.safety = ⟨false, false, false⟩ ∧ laserEn t = true ∧ t.latchQ = List.replicate s.cfg.nLatch true

/-! ## ThermalGuard -/

/-- Rules R232 to R237, R240, R241: what THERMAL_SAMPLE does in each case, and what it leaves; a trip's log request to a
full queue is dropped with LOG_DROPPED (rule R211, the spec's own choice D20). -/
def Obligations.ThermalSampleRunsHysteresis : Prop :=
  ∀ (s : State) (temp : Half) (fl : Byte) (raw32 : Word),
    let sensor := fl.getLsbD 0 || fl.getLsbD 1 || fl.getLsbD 2
    let range := decide (temp.toInt > s.cfg.tHighTrip) || decide (temp.toInt < s.cfg.tLowTrip)
    let th : ThermalReading := ⟨temp, fl.getLsbD 0, fl.getLsbD 1, fl.getLsbD 2, range, raw32⟩
    let quiet := s.thermal.bypass || (s.cfg.thermalGatedByReady && !s.scan.systemReady)
    let clear := !sensor && decide (temp.toInt < s.cfg.tHighClear) && decide (temp.toInt > s.cfg.tLowClear)
    (quiet = true →
      exec (.thermalSample temp fl raw32) s
        = .next { s with thermal := { s.thermal with reading := some th }, result := .nothing })
    ∧ (quiet = false → s.thermal.fault = false → (sensor || range) = true →
      exec (.thermalSample temp fl raw32) s = .next { s with
        thermal := ⟨true, some temp, s.thermal.bypass, some th⟩
        safety  := { s.safety with forceError := true, laserLatchedOff := true }
        logq    := queued s.cfg .thermal s.logq
        events  := s.events ++ dropped s.cfg s.logq ++ [.thermalTrip temp]
        result  := .nothing })
    ∧ (quiet = false → s.thermal.fault = false → (sensor || range) = false →
      exec (.thermalSample temp fl raw32) s
        = .next { s with thermal := { s.thermal with reading := some th }, result := .nothing })
    ∧ (quiet = false → s.thermal.fault = true → clear = true →
      exec (.thermalSample temp fl raw32) s = .next { s with
        thermal := { s.thermal with fault := false, reading := some th }
        events  := s.events ++ [.thermalClear]
        result  := .nothing })
    ∧ (quiet = false → s.thermal.fault = true → clear = false →
      exec (.thermalSample temp fl raw32) s
        = .next { s with thermal := { s.thermal with reading := some th }, result := .nothing })

/-- Rule R243, the hysteresis law, over any run of samples without sensor fault, not bypassed and not gated: tripped
exactly if the last sample outside the trip band is later than the last one strictly inside the clear band; and no
change over samples that all lie in a dead band. The premises on the thresholds say that no temperature is both. -/
def Obligations.ThermalHysteresisLaw : Prop :=
  ∀ (s : State) (samples : List (Half × Byte × Word)),
    s.cfg.tLowTrip ≤ s.cfg.tLowClear → s.cfg.tHighClear ≤ s.cfg.tHighTrip →
    s.thermal.bypass = false → (s.cfg.thermalGatedByReady = false ∨ s.scan.systemReady = true) →
    (∀ x ∈ samples, x.2.1.getLsbD 0 = false ∧ x.2.1.getLsbD 1 = false ∧ x.2.1.getLsbD 2 = false) →
    ∃ t, execAll (samples.map fun x => .thermalSample x.1 x.2.1 x.2.2) s = .next t
      ∧ (t.thermal.fault = true ↔
          (∃ a x b, samples = a ++ x :: b ∧ outsideTrip s.cfg x.1 ∧ ∀ y ∈ b, ¬insideClear s.cfg y.1)
          ∨ (s.thermal.fault = true ∧ ∀ y ∈ samples, ¬insideClear s.cfg y.1))
      ∧ ((∀ x ∈ samples, ¬outsideTrip s.cfg x.1 ∧ ¬insideClear s.cfg x.1) → t.thermal.fault = s.thermal.fault)

/-- Rule R238: SET_BYPASS sets the flag and reports the change, at the write ("this spec detects it at the write", D23);
writing the value it has changes nothing. -/
def Obligations.SetBypassReportsEdges : Prop :=
  ∀ (s : State) (v : Bool),
    (v ≠ s.thermal.bypass →
      exec (.setBypass v) s = .next { s with
        thermal := { s.thermal with bypass := v }
        events  := s.events ++ [.bypass (if v then .enter else .leave)]
        result  := .nothing })
    ∧ (v = s.thermal.bypass → exec (.setBypass v) s = .next { s with result := .nothing })

/-! ## Latch actions -/

/-- Rule R256: an edge is accepted if it is the first or BTN_DEBOUNCE_MS after the last accepted one. -/
def Obligations.ButtonEdgeIsDebounced : Prop :=
  ∀ (s : State) (now : Word),
    (s.signals.btnSeen = false ∨ s.cfg.btnDebounceMs ≤ (now - s.signals.btnLastMs).toNat →
      exec (.btnEdge now) s = .next { s with
        signals := { s.signals with resetPending := true, btnSeen := true, btnLastMs := now }
        result  := .nothing })
    ∧ (s.signals.btnSeen = true → (now - s.signals.btnLastMs).toNat < s.cfg.btnDebounceMs →
      exec (.btnEdge now) s = .next { s with result := .nothing })

/-- Rules R254, R255, R260, R445: a request sets its pending bit and nothing else; any number of requests cause one
action; with both bits pending both orders of the handlers run, and they end in different states. -/
def Obligations.SignalsAreNotCountedNorOrdered : Prop :=
  ∀ (s : State) (n : Nat),
    exec .reqReset s = .next { s with signals := { s.signals with resetPending := true }, result := .nothing }
    ∧ exec .reqForce s = .next { s with signals := { s.signals with forcePending := true }, result := .nothing }
    ∧ (∃ t, execAll (List.replicate (n + 1) .reqReset ++ [.doReset]) s = .next t ∧ t.signals.resetPending = false)
    ∧ execAll (List.replicate (n + 1) .reqReset ++ [.doReset, .doReset]) s = .refused .noPendingReset
    ∧ (∃ t, execAll (List.replicate (n + 1) .reqForce ++ [.doForce]) s = .next t ∧ t.signals.forcePending = false)
    ∧ execAll (List.replicate (n + 1) .reqForce ++ [.doForce, .doForce]) s = .refused .noPendingForce
    ∧ (s.signals.resetPending = true → s.signals.forcePending = true →
      ∃ t u, execAll [.doReset, .doForce] s = .next t ∧ execAll [.doForce, .doReset] s = .next u
        ∧ t.safety = ⟨true, true, true⟩ ∧ t.latchQ = List.replicate s.cfg.nLatch false
        ∧ u.safety = ⟨false, false, false⟩ ∧ u.latchQ = List.replicate s.cfg.nLatch true
        ∧ t.signals = u.signals)

/-- Rules R257, R253: DO_RESET, when a reset is pending; refused otherwise. -/
def Obligations.DoResetRearms : Prop :=
  ∀ s : State,
    (s.signals.resetPending = true →
      ∃ t, exec .doReset s = .next t ∧ laserEn t = true
        ∧ t = { s with
          signals := { s.signals with resetPending := false }
          safety  := ⟨false, false, false⟩
          latchQ  := List.replicate s.cfg.nLatch true
          events  := s.events ++ [.latchSeq .rearm]
          result  := .nothing })
    ∧ (s.signals.resetPending = false → exec .doReset s = .refused .noPendingReset)

/-- Rules R258, R251, R252: DO_FORCE, when a force is pending; refused otherwise. -/
def Obligations.DoForceFaults : Prop :=
  ∀ s : State,
    (s.signals.forcePending = true →
      ∃ t, exec .doForce s = .next t ∧ laserEn t = false
        ∧ t = { s with
          signals := { s.signals with forcePending := false }
          safety  := ⟨true, true, true⟩
          latchQ  := List.replicate s.cfg.nLatch false
          events  := s.events ++ [.latchSeq .fault]
          result  := .nothing })
    ∧ (s.signals.forcePending = false → exec .doForce s = .refused .noPendingForce)

/-! ## RingBuffer -/

/-- Rule R271: RB_PUT stores at the head and queues the byte last, or answers false to a full buffer. (The `user`
mark is the model's, log entry 8.) -/
def Obligations.RbPutQueuesOneByte : Prop :=
  ∀ (s : State) (link b : Byte) (l : Link), s.cfg.wf = true → s.links[link.toNat]? = some l → ringOk s.cfg l →
    (l.user = none ∨ l.user = some .direct) →
    (ringCount l = s.cfg.rbN →
      exec (.rbPut link b) s = .next { s with
        links := s.links.set link.toNat { l with user := some .direct }, result := .accepted false })
    ∧ (ringCount l ≠ s.cfg.rbN →
      ∃ l', exec (.rbPut link b) s = .next { s with links := s.links.set link.toNat l', result := .accepted true }
        ∧ l' = { l with
          user   := some .direct
          rbBuf  := l.rbBuf.set (l.rbHead &&& BitVec.ofNat 16 (s.cfg.rbN - 1)).toNat b
          rbHead := l.rbHead + 1 }
        ∧ ringOk s.cfg l' ∧ ringContents s.cfg l' = ringContents s.cfg l ++ [b])

/-- Rule R272: RB_GET takes the oldest byte, or answers that there is none. (The `user` mark is the model's, log
entry 8.) -/
def Obligations.RbGetTakesOldestByte : Prop :=
  ∀ (s : State) (link : Byte) (l : Link), s.cfg.wf = true → s.links[link.toNat]? = some l → ringOk s.cfg l →
    (l.user = none ∨ l.user = some .direct) →
    (ringCount l = 0 →
      exec (.rbGet link) s = .next { s with
        links := s.links.set link.toNat { l with user := some .direct }, result := .byte none })
    ∧ (ringCount l ≠ 0 →
      ∃ l' b, exec (.rbGet link) s = .next { s with links := s.links.set link.toNat l', result := .byte (some b) }
        ∧ l' = { l with user := some .direct, rbTail := l.rbTail + 1 }
        ∧ b = l.rbBuf.getD (l.rbTail &&& BitVec.ofNat 16 (s.cfg.rbN - 1)).toNat 0
        ∧ ringOk s.cfg l' ∧ ringContents s.cfg l = b :: ringContents s.cfg l')

/-- Rule R273: RB_WRITE queues as much as fits, in order, and returns how much that was. (The `user` mark is the
model's, log entry 8.) -/
def Obligations.RbWriteQueuesWhatFits : Prop :=
  ∀ (s : State) (link : Byte) (bytes : List Byte) (l : Link),
    s.cfg.wf = true → s.links[link.toNat]? = some l → ringOk s.cfg l →
    (l.user = none ∨ l.user = some .direct) →
    ∃ l', exec (.rbWrite link bytes) s = .next { s with
        links  := s.links.set link.toNat l'
        result := .count (min bytes.length (s.cfg.rbN - ringCount l)) }
      ∧ ringOk s.cfg l'
      ∧ ringContents s.cfg l' = ringContents s.cfg l ++ bytes.take (min bytes.length (s.cfg.rbN - ringCount l))
      ∧ l' = { l with user := some .direct, rbBuf := l'.rbBuf, rbHead := l'.rbHead }

/-- Rule R274, the FIFO law: at every point of any interleaving of puts and gets, what was queued and then accepted is,
in order, what was returned followed by what is still queued. -/
def Obligations.RingIsFifo : Prop :=
  ∀ (s : State) (link : Byte) (l : Link) (ops : List RingOp),
    s.cfg.wf = true → s.links[link.toNat]? = some l → ringOk s.cfg l →
    (l.user = none ∨ l.user = some .direct) →
    ∃ puts gets t l', ringTrace link ops s = some (puts, gets, t) ∧ t.links[link.toNat]? = some l' ∧ ringOk s.cfg l'
      ∧ ringContents s.cfg l ++ puts = gets ++ ringContents s.cfg l'
      ∧ (ringCount l = 0 → gets <+: puts)

/-- Rules R275, R441: a ring buffer that its LinkDriver drives refuses the Host's RB operations on both its sides, and
one that the Host drives directly refuses the LinkDriver's. (Who has driven a ring buffer since reset is recorded by the
model, log entry 8.) -/
def Obligations.SecondAgentIsRefused : Prop :=
  ∀ (s : State) (link b var : Byte) (bytes : List Byte) (value : Half) (l : Link),
    s.links[link.toNat]? = some l →
    (l.user = some .driver →
      exec (.rbPut link b) s = .refused .secondProducer ∧ exec (.rbWrite link bytes) s = .refused .secondProducer
        ∧ exec (.rbGet link) s = .refused .secondConsumer)
    ∧ (l.user = some .direct →
      exec (.ldRxByte link b) s = .refused .secondProducer ∧ exec (.ldPoll link) s = .refused .secondConsumer
        ∧ exec (.frameReadReq link var) s = .refused .secondProducer
        ∧ exec (.frameReadReply link var value) s = .refused .secondProducer
        ∧ exec (.frameWrite link var value) s = .refused .secondProducer
        ∧ exec (.frameAck link var value) s = .refused .secondProducer)

/-! ## FrameParser -/

/-- Rules R286 to R292, and R122 for the expected length: FP_FEED in each state of the parser. The value 0 of a completed
4-byte frame is "by convention of this spec" (R291, D28). -/
def Obligations.FpFeedFollowsStateMachine : Prop :=
  ∀ (s : State) (link b : Byte) (l : Link), s.links[link.toNat]? = some l →
    let n := frameLen s.cfg (roleOf s.cfg link.toNat) b
    let buf := l.fpBuf.set l.fpIdx b
    let back : Link := { l with fpBuf := buf, fpState := .waitStart, fpIdx := 0, fpExpected := 0 }
    let f : ProtoFrame :=
      if l.fpExpected = 6 then ⟨buf.getD 1 0, buf.getD 2 0, true, buf.getD 4 0 ++ buf.getD 3 0⟩
      else ⟨buf.getD 1 0, buf.getD 2 0, false, 0⟩
    (l.fpState = .waitStart → b ≠ s.cfg.frameStart →
      exec (.fpFeed link b) s = .next { s with result := .frame none })
    ∧ (l.fpState = .waitStart → b = s.cfg.frameStart →
      exec (.fpFeed link b) s = .next { s with
        links  := s.links.set link.toNat { l with fpBuf := l.fpBuf.set 0 b, fpIdx := 1, fpState := .waitLen }
        result := .frame none })
    ∧ (l.fpState = .waitLen → n = 0 ∨ s.cfg.fpBufLen < n →
      exec (.fpFeed link b) s = .next { s with
        links  := s.links.set link.toNat
          { l with fpBuf := l.fpBuf.set 1 b, fpState := .waitStart, fpIdx := 0, fpExpected := 0 }
        result := .frame none })
    ∧ (l.fpState = .waitLen → n ≠ 0 → n ≤ s.cfg.fpBufLen →
      exec (.fpFeed link b) s = .next { s with
        links  := s.links.set link.toNat
          { l with fpBuf := l.fpBuf.set 1 b, fpIdx := 2, fpExpected := n, fpState := .accum }
        result := .frame none })
    ∧ (l.fpState = .accum → l.fpIdx + 1 < l.fpExpected →
      exec (.fpFeed link b) s = .next { s with
        links  := s.links.set link.toNat { l with fpBuf := buf, fpIdx := l.fpIdx + 1 }
        result := .frame none })
    ∧ (l.fpState = .accum → l.fpExpected ≤ l.fpIdx + 1 → buf.getD (l.fpExpected - 1) 0 ≠ s.cfg.frameEnd →
      exec (.fpFeed link b) s
        = .next { s with links := s.links.set link.toNat back, result := .frame none })
    ∧ (l.fpState = .accum → l.fpExpected ≤ l.fpIdx + 1 → buf.getD (l.fpExpected - 1) 0 = s.cfg.frameEnd →
      exec (.fpFeed link b) s
        = .next { s with links := s.links.set link.toNat back, result := .frame (some f) })

/-- Rule R296: from WAIT_START, noise before a START byte is ignored, a well-formed frame fed byte by byte yields
exactly one completed frame with its fields, a frame with a corrupted end byte yields none, and after either the parser
is in WAIT_START, so that a valid frame fed next parses. The value 0 of a frame without one is "by convention of this
spec" (R291, D28). -/
def Obligations.WellFormedFrameParses : Prop :=
  ∀ (s : State) (link cmd var last : Byte) (value : Option Half) (noise : List Byte) (l : Link),
    s.links[link.toNat]? = some l → l.fpState = .waitStart → l.fpBuf.length = s.cfg.fpBufLen →
    let good := [s.cfg.frameStart, cmd, var] ++ (value.map le16).getD [] ++ [s.cfg.frameEnd]
    let bad := [s.cfg.frameStart, cmd, var] ++ (value.map le16).getD [] ++ [last]
    let silence := List.replicate (good.length - 1) (none : Option ProtoFrame)
    let frame : ProtoFrame := ⟨cmd, var, value.isSome, value.getD 0⟩
    frameLen s.cfg (roleOf s.cfg link.toNat) cmd = good.length → good.length ≤ s.cfg.fpBufLen →
    last ≠ s.cfg.frameEnd → (∀ b ∈ noise, b ≠ s.cfg.frameStart) →
    (∃ t, feedAll link noise s = some (List.replicate noise.length none, t) ∧ t.links = s.links)
    ∧ (∃ t l', feedAll link good s = some (silence ++ [some frame], t) ∧ t.links[link.toNat]? = some l'
        ∧ l'.fpState = .waitStart ∧ l'.fpIdx = 0 ∧ l'.fpExpected = 0)
    ∧ (∃ t l', feedAll link bad s = some (silence ++ [none], t) ∧ t.links[link.toNat]? = some l'
        ∧ l'.fpState = .waitStart ∧ l'.fpIdx = 0 ∧ l'.fpExpected = 0)
    ∧ ∃ t, feedAll link (bad ++ good) s = some (silence ++ [none] ++ silence ++ [some frame], t)

/-! ## LinkDriver -/

/-- Rules R311, R395: LD_RX_BYTE queues the byte, or loses it when the buffer is full, and raises the wake-up. (The
`user` mark is the model's, log entry 8.) -/
def Obligations.RxByteIsQueued : Prop :=
  ∀ (s : State) (link b : Byte) (l : Link), s.cfg.wf = true → s.links[link.toNat]? = some l → ringOk s.cfg l →
    (l.user = none ∨ l.user = some .driver) →
    (ringCount l = s.cfg.rbN →
      exec (.ldRxByte link b) s = .next { s with
        links  := s.links.set link.toNat { l with user := some .driver, rxNotify := true }
        result := .nothing })
    ∧ (ringCount l ≠ s.cfg.rbN →
      ∃ l', exec (.ldRxByte link b) s = .next { s with links := s.links.set link.toNat l', result := .nothing }
        ∧ ringContents s.cfg l' = ringContents s.cfg l ++ [b]
        ∧ l' = { l with
          user     := some .driver
          rbBuf    := l.rbBuf.set (l.rbHead &&& BitVec.ofNat 16 (s.cfg.rbN - 1)).toNat b
          rbHead   := l.rbHead + 1
          rxNotify := true })

/-- Rules R312 to R317: LD_POLL clears the wake-up, drains the ring buffer, and leaves the parser and the trace as
FP_FEED of the queued bytes in order leaves them, with the callbacks of each completed frame. (The `user` mark is
the model's, log entry 8.) -/
def Obligations.PollDrainsAndDispatches : Prop :=
  ∀ (s : State) (link : Byte) (l : Link), s.cfg.wf = true → s.links[link.toNat]? = some l → ringOk s.cfg l →
    (l.user = none ∨ l.user = some .driver) →
    ∃ t l' fs u p, exec (.ldPoll link) s = .next t
      ∧ feedAll link (ringContents s.cfg l) s = some (fs, u) ∧ u.links[link.toNat]? = some p
      ∧ l' = { p with rxNotify := false, rbTail := l.rbHead, user := some .driver }
      ∧ ringCount l' = 0
      ∧ t = { s with
        links  := s.links.set link.toNat l'
        events := s.events ++ (fs.filterMap id).flatMap (callbacks s.cfg)
        result := .nothing }

/-- A frame at a UART is LD_RX_BYTE of each of its bytes (rule R126) and one LD_POLL (log entry 7): it answers a next
state on every link that the Host does not drive directly. The same holds of a step on bytes at a UART that are none of
the four frames (rule R128). -/
def Obligations.FrameIsItsBytesThenPoll : Prop :=
  ∀ (s : State) (link var : Byte) (value : Half) (l : Link), s.links[link.toNat]? = some l →
    (l.user = none ∨ l.user = some .driver) →
    let arrive := fun bytes => execAll (bytes.map (fun b => Instr.ldRxByte link b) ++ [.ldPoll link]) s
    let six := fun cmd => [s.cfg.frameStart, cmd, var, value.extractLsb' 0 8, value.extractLsb' 8 8, s.cfg.frameEnd]
    (∃ t, exec (.frameReadReq link var) s = .next t
      ∧ arrive [s.cfg.frameStart, s.cfg.cmdRead, var, s.cfg.frameEnd] = .next t)
    ∧ (∃ t, exec (.frameReadReply link var value) s = .next t ∧ arrive (six s.cfg.cmdRead) = .next t)
    ∧ (∃ t, exec (.frameWrite link var value) s = .next t ∧ arrive (six s.cfg.cmdWrite) = .next t)
    ∧ (∃ t, exec (.frameAck link var value) s = .next t ∧ arrive (six s.cfg.cmdAck) = .next t)
    ∧ ∀ bytes rest, s.inbox = ⟨.uart link, bytes⟩ :: rest →
        decodeInput s.cfg ⟨.uart link, bytes⟩ = .error .notAFrame →
        ∃ t, step s = .next t
          ∧ execAll (bytes.map (fun b => Instr.ldRxByte link b) ++ [.ldPoll link]) { s with inbox := rest } = .next t

/-- Rules R314 to R317: a frame that arrives at an idle link with room for it is delivered: an ACK and a READ reply
with their callback, a READ request and a WRITE as FRAME_RX only; the block does nothing else of its own. (That a
frame's LD_POLL follows its last byte at once is the model's choice, log entry 7; the value 0 of a READ request is "by
convention of this spec", R291, D28.) -/
def Obligations.FramesAreDelivered : Prop :=
  ∀ (s : State) (link var : Byte) (value : Half) (l : Link), s.cfg.wf = true → s.links[link.toNat]? = some l →
    (l.user = none ∨ l.user = some .driver) →
    ringOk s.cfg l → ringCount l = 0 → l.fpState = .waitStart → l.fpBuf.length = s.cfg.fpBufLen →
    6 ≤ s.cfg.fpBufLen → 6 ≤ s.cfg.rbN →
    let delivered := fun i (es : List Event) => ∃ t, exec i s = .next t
      ∧ t = { s with links := t.links, events := s.events ++ es, result := .nothing }
      ∧ ∃ l', t.links = s.links.set link.toNat l' ∧ ringCount l' = 0 ∧ l'.fpState = .waitStart ∧ l'.rxNotify = false
    delivered (.frameAck link var value) [.frameRx ⟨s.cfg.cmdAck, var, true, value⟩, .ackRx var value]
    ∧ delivered (.frameWrite link var value) [.frameRx ⟨s.cfg.cmdWrite, var, true, value⟩]
    ∧ (roleOf s.cfg link.toNat = .master →
        delivered (.frameReadReply link var value)
          [.frameRx ⟨s.cfg.cmdRead, var, true, value⟩, .readDataRx var value])
    ∧ (roleOf s.cfg link.toNat = .slave →
        delivered (.frameReadReq link var) [.frameRx ⟨s.cfg.cmdRead, var, false, 0⟩])

/-- Rules R318, R321, R392: LD_SEND builds the frame, transmits it, reports the result, and changes nothing else; a
command and has_value that make no frame are refused. -/
def Obligations.SendTransmitsOneFrame : Prop :=
  ∀ (s : State) (link cmd var : Byte) (hasValue : Bool) (value : Half) (l : Link),
    s.links[link.toNat]? = some l →
    let admitted := (cmd = s.cfg.cmdWrite ∨ cmd = s.cfg.cmdAck) ∧ hasValue = true ∨ cmd = s.cfg.cmdRead
    let bytes := [s.cfg.frameStart, cmd, var]
      ++ (if hasValue then [value.extractLsb' 0 8, value.extractLsb' 8 8] else []) ++ [s.cfg.frameEnd]
    (admitted → s.draws.txAnswer = .ok →
      exec (.ldSend link cmd var hasValue value) s = .next { s with
        draws := s.draws.afterTx, events := s.events ++ [.tx bytes .ok], result := .sent .ok })
    ∧ (admitted → s.draws.txAnswer = .timeout →
      exec (.ldSend link cmd var hasValue value) s = .next { s with
        draws  := s.draws.afterTx
        events := s.events ++ [.tx bytes .timeout, .ioError .txTimeout]
        result := .sent .timeout })
    ∧ (¬admitted → exec (.ldSend link cmd var hasValue value) s = .refused .notASendableFrame)

/-- Rules R319, R320: LD_WRITE_U16 is LD_SEND(CMD_WRITE, var, 1, value), LD_READ_U16 is LD_SEND(CMD_READ, var, 0, 0);
both run on every link. -/
def Obligations.WriteAndReadU16AreSends : Prop :=
  ∀ (s : State) (link var : Byte) (value : Half) (l : Link), s.links[link.toNat]? = some l →
    (∃ t, exec (.ldWriteU16 link var value) s = .next t ∧ exec (.ldSend link s.cfg.cmdWrite var true value) s = .next t
      ∧ ∃ r, t.result = .sent r ∧ .tx [s.cfg.frameStart, s.cfg.cmdWrite, var, value.extractLsb' 0 8,
          value.extractLsb' 8 8, s.cfg.frameEnd] r ∈ t.events.drop s.events.length)
    ∧ (∃ t, exec (.ldReadU16 link var) s = .next t ∧ exec (.ldSend link s.cfg.cmdRead var false 0) s = .next t
      ∧ ∃ r, t.result = .sent r
        ∧ .tx [s.cfg.frameStart, s.cfg.cmdRead, var, s.cfg.frameEnd] r ∈ t.events.drop s.events.length)

/-- Rule R324: an operation on one link leaves every other link as it is, and what it does does not depend on them. -/
def Obligations.LinksAreIndependent : Prop :=
  ∀ (i : Instr) (link : Byte) (s t : State), i.link? = some link → exec i s = .next t →
    (∀ j, j ≠ link.toNat → t.links[j]? = s.links[j]?)
    ∧ ∀ other : List Link, other[link.toNat]? = s.links[link.toNat]? →
        ∃ u, exec i { s with links := other } = .next u ∧ u.links[link.toNat]? = t.links[link.toNat]?
          ∧ (∀ j, j ≠ link.toNat → u.links[j]? = other[j]?) ∧ u = { t with links := u.links }

/-! ## FlashLog -/

/-- Rules R335 to R337, R358: FL_INIT always answers. With OK it has recovered the cursor and the next sequence number
from the NVM; after a failed read both are as they were. It only reads, and it succeeds if every read does. -/
def Obligations.InitRecoversCursorAndSequence : Prop :=
  ∀ s : State, s.cfg.wf = true → ∃ t ops, exec .flInit s = .next t
    ∧ t.nvmOps = s.nvmOps ++ ops ∧ (∀ op ∈ ops, op.isRead = true) ∧ ops.length ≤ 2 * capacity s.cfg
    ∧ t = { s with flash := t.flash, events := t.events, nvmOps := t.nvmOps, draws := t.draws, result := t.result }
    ∧ t.result = .status t.flash.status ∧ t.flash.phase = .idle
    ∧ (t.flash.status = .ok →
        t.flash.inited = true ∧ t.events = s.events ∧ isRecoveredCursor s t.flash.cursor
          ∧ isRecoveredSeq s t.flash.cursor t.flash.nextSeq)
    ∧ (t.flash.status = .fail →
        t.flash.inited = s.flash.inited ∧ t.flash.cursor = s.flash.cursor ∧ t.flash.nextSeq = s.flash.nextSeq
          ∧ t.events = s.events ++ [.ioError .nvmRead])
    ∧ (nvmAllOk (2 * capacity s.cfg) s.draws → t.flash.status = .ok)

/-- Rules R340 to R343, R345: FL_APPEND with every transaction OK and no power loss: the sector is erased exactly at the
first slot of a sector, the body and then the commit byte are programmed, each byte of the NVM is as NOR programming
leaves it (R84, R85; that it is the AND of old and new is log entry 5), the cursor and the sequence number advance, and
nothing else changes. -/
def Obligations.AppendWritesOneRecord : Prop :=
  ∀ (s : State) (code flags : Half) (msg : List Byte) (now : Word),
    s.nvm.wf → s.flash.inited = true → s.flash.cursor < capacity s.cfg → uncut s →
    let c := s.cfg
    let k := s.flash.cursor
    let body := bodyBytes c s.flash.nextSeq now code flags msg
    nvmAllOk (appendCount c k) s.draws.afterCut →
    ∃ m, exec (.flAppend code flags msg now) s = .next { s with
        nvm    := m
        flash  := ⟨true, (k + 1) % capacity c, s.flash.nextSeq + 1, .ok, .idle⟩
        nvmOps := s.nvmOps ++ appendOps c k body
        draws  := s.draws.afterCut.afterNvms (appendCount c k)
        result := .status .ok }
      ∧ m.wf
      ∧ ∀ a, m.read a =
          if inBody c k a then afterErase s k a &&& body.getD (a - slotAddr c k) 0
          else if a = slotAddr c k + (12 + c.msgLen) then afterErase s k a &&& c.commitVal
          else afterErase s k a

/-- Rules R344, R334, R84, R85: when transaction number `j` of an FL_APPEND is the first to fail, no later one is
issued, cursor and sequence number are kept, FAIL is returned and reported, and the NVM is as the failed transaction
left it: a failed erase touches its sector only, a failed program leaves each bit unchanged or programmed (the AND of
old and new is log entry 5). -/
def Obligations.AppendFailureKeepsCursor : Prop :=
  ∀ (s : State) (code flags : Half) (msg : List Byte) (now : Word) (j : Nat),
    s.nvm.wf → s.flash.inited = true → s.flash.cursor < capacity s.cfg → uncut s →
    let c := s.cfg
    let k := s.flash.cursor
    let body := bodyBytes c s.flash.nextSeq now code flags msg
    let n := appendCount c k
    let kind := if n = 3 ∧ j = 0 then IoKind.nvmErase else IoKind.nvmProgram
    j < n → nvmAllOk j s.draws.afterCut → (s.draws.afterCut.afterNvms j).nvmAnswer = .fail →
    ∃ t, exec (.flAppend code flags msg now) s = .next t
      ∧ t = { s with
        nvm    := t.nvm
        flash  := ⟨true, k, s.flash.nextSeq, .fail, .idle⟩
        events := s.events ++ [.ioError kind]
        nvmOps := s.nvmOps ++ ((appendOps c k body).take j ++ (((appendOps c k body).drop j).take 1).map NvmOp.failed)
        draws  := t.draws
        result := .status .fail }
      ∧ t.nvm.wf
      ∧ (n = 3 ∧ j = 0 → ∀ a, ¬inSector c (k / rps c) a → t.nvm.read a = s.nvm.read a)
      ∧ (¬(n = 3 ∧ j = 0) → ∀ a,
          (inBody c k a → j + 2 = n → halfDone (afterErase s k a) (body.getD (a - slotAddr c k) 0) (t.nvm.read a))
          ∧ (inBody c k a → j + 1 = n → t.nvm.read a = afterErase s k a &&& body.getD (a - slotAddr c k) 0)
          ∧ (a = slotAddr c k + (12 + c.msgLen) → j + 2 = n → t.nvm.read a = afterErase s k a)
          ∧ (a = slotAddr c k + (12 + c.msgLen) → j + 1 = n → halfDone (afterErase s k a) c.commitVal (t.nvm.read a))
          ∧ (¬inBody c k a → a ≠ slotAddr c k + (12 + c.msgLen) → t.nvm.read a = afterErase s k a))

/-- Rules R346, R431, R107: a power loss at a cut of FL_APPEND leaves the volatile state of reset, the transactions
before the cut in effect and those after it not issued. `n` counts the transactions before the cut. (That an append and
its cut are one step is log entry 9; the AND of old and new is log entry 5; that the three software flags are 0 after
the reset is log entry 17.) -/
def Obligations.PowerLossCutsAppend : Prop :=
  ∀ (s : State) (code flags : Half) (msg : List Byte) (now : Word) (cut : CutPoint),
    s.nvm.wf → s.flash.inited = true → s.flash.cursor < capacity s.cfg → s.draws.cutAnswer = some cut →
    let c := s.cfg
    let k := s.flash.cursor
    let body := bodyBytes c s.flash.nextSeq now code flags msg
    let n := match cut with
      | .cut1 => 1
      | .cut2 => appendCount c k - 1
      | .cut3 => appendCount c k
    (cut = .cut1 → k % rps c = 0) → nvmAllOk n s.draws.afterCut →
    ∃ t, exec (.flAppend code flags msg now) s = .next t ∧ resetTable t ∧ t.cfg = c ∧ t.events = s.events
      ∧ t.inbox = s.inbox ∧ t.nvmOps = s.nvmOps ++ (appendOps c k body).take n ∧ t.nvm.wf
      ∧ ∀ a, t.nvm.read a =
          if inBody c k a ∧ cut ≠ .cut1 then afterErase s k a &&& body.getD (a - slotAddr c k) 0
          else if a = slotAddr c k + (12 + c.msgLen) ∧ cut = .cut3 then afterErase s k a &&& c.commitVal
          else afterErase s k a

/-- Rules R347, R446, crash consistency: an FL_APPEND cut between body and commit leaves a slot that FL_INIT treats as
empty; FL_INIT gives back the same cursor and the same sequence number, the next FL_APPEND programs the same slot with
that number and commits it, and where no erase comes between, the body is the bitwise AND of the two. The premises: the
slots before the cursor are not EMPTY, the slot at it is (or is erased first), and the newest record is the one before
it, outside the sector about to be erased, or there is no record. (The AND of the two bodies rests on log entry 5.) -/
def Obligations.InterruptedAppendIsRepeated : Prop :=
  ∀ (s : State) (code flags code' flags' : Half) (msg msg' : List Byte) (now now' : Word),
    s.cfg.wf = true → s.cfg.erased = 0xFF → s.nvm.wf → s.flash.inited = true → s.flash.cursor < capacity s.cfg →
    let c := s.cfg
    let k := s.flash.cursor
    let q := s.flash.nextSeq
    let body := bodyBytes c q now code flags msg
    let body' := bodyBytes c q now' code' flags' msg'
    (∀ j < k, s.slot j ≠ .empty) → (k % rps c ≠ 0 → s.slot k = .empty) →
    (s.slot (slotBack c k 1) = .valid ∧ q = (s.record (slotBack c k 1)).seq + 1
        ∧ (k % rps c = 0 → slotBack c k 1 / rps c ≠ k / rps c)
      ∨ q = 1 ∧ ∀ j < capacity c, s.slot j ≠ .valid) →
    s.draws.cutAnswer = some .cut2 → nvmAllOk (appendCount c k - 1) s.draws.afterCut →
    ∃ t, exec (.flAppend code flags msg now) s = .next t ∧ t.slot k = .empty
      ∧ (nvmAllOk (2 * capacity c) t.draws →
        ∃ u, exec .flInit t = .next u ∧ u.result = .status .ok ∧ u.flash.cursor = k ∧ u.flash.nextSeq = q
          ∧ (uncut u → nvmAllOk (appendCount c k) u.draws.afterCut →
            ∃ v, exec (.flAppend code' flags' msg' now') u = .next v ∧ v.slot k = .valid
              ∧ v.nvmOps = u.nvmOps ++ appendOps c k body'
              ∧ (k % rps c ≠ 0 → ∀ i < 12 + c.msgLen,
                  v.nvm.read (slotAddr c k + i) = s.nvm.read (slotAddr c k + i) &&& body.getD i 0 &&& body'.getD i 0)
              ∧ (k % rps c = 0 → ∀ i < 12 + c.msgLen, v.nvm.read (slotAddr c k + i) = body'.getD i 0)))

/-- Rule R360, the round trip: into an erased slot, or at the first slot of a sector, FL_APPEND of a record followed by
FL_READ_LAST_N(1, 1), every transaction OK, returns that record with the sequence number it was given. -/
def Obligations.AppendedRecordReadsBack : Prop :=
  ∀ (s : State) (code flags : Half) (msg : List Byte) (now : Word),
    s.cfg.wf = true → s.cfg.erased = 0xFF → s.nvm.wf → s.flash.inited = true → s.flash.cursor < capacity s.cfg →
    ((∀ i < s.cfg.recordSize, s.nvm.read (slotAddr s.cfg s.flash.cursor + i) = s.cfg.erased)
      ∨ s.flash.cursor % rps s.cfg = 0) →
    uncut s → nvmAllOk (appendCount s.cfg s.flash.cursor + 1) s.draws.afterCut →
    ∃ t u, exec (.flAppend code flags msg now) s = .next t ∧ exec (.flReadLastN 1 1) t = .next u
      ∧ u.result = .records .ok [⟨s.flash.nextSeq, now, code, flags,
          msg.take s.cfg.msgLen ++ List.replicate (s.cfg.msgLen - min msg.length s.cfg.msgLen) 0⟩]

/-- Rule R348, the erase-count law: after FL_INIT on a fresh region, with every transaction OK and no power loss, append
number `j + 1` issues an erase exactly if `j mod RPS = 0`, of sector `(j div RPS) mod LOG_SECTORS`. -/
def Obligations.OneEraseForEachSectorFilled : Prop :=
  ∀ (s : State) (rs : List (LogRequest × Word)) (oks : Nat) (more : List Status) (cuts : List (Option CutPoint)),
    s.cfg.wf = true → s.nvm.wf →
    (∀ a, s.cfg.logBase ≤ a → a < s.cfg.logBase + s.cfg.logSectors * s.cfg.sectorSize → s.nvm.read a = s.cfg.erased) →
    s.draws.nvm = List.replicate oks .ok ++ more → 2 * capacity s.cfg + 3 * rs.length ≤ oks →
    s.draws.cut = List.replicate rs.length none ++ cuts →
    ∃ t ops, execAll (.flInit :: rs.map fun x => .flAppend x.1.code x.1.flags x.1.msg x.2) s = .next t
      ∧ t.nvmOps = s.nvmOps ++ ops
      ∧ erasedSectors ops = ((List.range rs.length).filter fun j => j % rps s.cfg == 0).map fun j =>
          j / rps s.cfg % s.cfg.logSectors

/-- Rule R350: LOG_WRITE removes the head of the queue whatever the outcome and appends it; it is refused with an empty
queue. -/
def Obligations.LogWriteAppendsQueueHead : Prop :=
  ∀ (s : State) (now : Word), s.flash.inited = true →
    (∀ r rest, s.logq = r :: rest → s.flash.cursor < capacity s.cfg →
      ∃ t, exec (.logWrite now) s = .next t
        ∧ exec (.flAppend r.code r.flags r.msg now) { s with logq := rest } = .next t)
    ∧ (s.logq = [] → exec (.logWrite now) s = .refused .logQueueEmpty)

/-- Rules R352, R353, R358: FL_READ_LAST_N returns the records of the VALID slots going backward from the cursor, newest
first, at most min(n, CAPACITY, max_out) of them; it stops short only at a slot that is not VALID or at a failed read,
reads at most that many slots, and changes no byte of the NVM and no cursor. -/
def Obligations.ReadLastNWalksBackward : Prop :=
  ∀ (s : State) (n maxOut : Half), s.cfg.wf = true → s.flash.inited = true →
    let lim := min (min n.toNat (capacity s.cfg)) maxOut.toNat
    ∃ t st rs ops, exec (.flReadLastN n maxOut) s = .next t ∧ t.result = .records st rs
      ∧ rs.length ≤ lim
      ∧ (∀ i < rs.length, s.slot (slotBack s.cfg s.flash.cursor (i + 1)) = .valid
          ∧ rs[i]? = some (s.record (slotBack s.cfg s.flash.cursor (i + 1))))
      ∧ (st = .ok → rs.length < lim → s.slot (slotBack s.cfg s.flash.cursor (rs.length + 1)) ≠ .valid)
      ∧ t = { s with
        flash  := { s.flash with status := st, phase := if st = .ok then s.flash.phase else .idle }
        events := s.events ++ (if st = .ok then [] else [.ioError .nvmRead])
        nvmOps := s.nvmOps ++ ops
        draws  := t.draws
        result := t.result }
      ∧ (∀ op ∈ ops, op.isRead = true) ∧ ops.length ≤ lim
      ∧ (nvmAllOk lim s.draws → st = .ok)

/-- Rules R355, R358: FL_COUNT_VALID counts the VALID slots of the whole region, or returns no count after a failed
read; it only reads. -/
def Obligations.CountValidCountsEverySlot : Prop :=
  ∀ s : State, s.cfg.wf = true → s.flash.inited = true →
    ∃ t st count ops, exec .flCountValid s = .next t ∧ t.result = .validCount st count
      ∧ (st = .ok → count = some ((List.range (capacity s.cfg)).countP fun k => s.slot k == .valid))
      ∧ (st = .fail → count = none)
      ∧ t = { s with
        flash  := { s.flash with status := st, phase := if st = .ok then s.flash.phase else .idle }
        events := s.events ++ (if st = .ok then [] else [.ioError .nvmRead])
        nvmOps := s.nvmOps ++ ops
        draws  := t.draws
        result := t.result }
      ∧ (∀ op ∈ ops, op.isRead = true) ∧ (st = .ok → ops.length = capacity s.cfg)
      ∧ (nvmAllOk (capacity s.cfg) s.draws → st = .ok)

/-- Rule R359: before a successful FL_INIT the other operations on the log are refused. -/
def Obligations.LogIsRefusedBeforeInit : Prop :=
  ∀ (s : State) (code flags n maxOut : Half) (msg : List Byte) (now : Word), s.flash.inited = false →
    exec (.flAppend code flags msg now) s = .refused .logNotInitialised
    ∧ exec (.logWrite now) s = .refused .logNotInitialised
    ∧ exec (.flReadLastN n maxOut) s = .refused .logNotInitialised
    ∧ exec .flCountValid s = .refused .logNotInitialised

/-- A record image put to the NVM from outside the block is no operation (rules R11, R87, R130): it is refused. -/
def Obligations.RecordImageIsRefused : Prop :=
  ∀ (s : State) (seq ms : Word) (code flags : Half) (msg : List Byte) (commit : Byte),
    exec (.logRecord seq ms code flags msg commit) s = .refused .foreignRecord

/-! ## StatusWordBuilder -/

/-- Rule R371: the listed bits of the debug word; the others are free at each read (R372). That bits 6 to 8 are the
reported flags is the spec's own reading (R371, D41). Reading changes nothing but the number of the next draw (the
model's, log entry 3). Rules R373, R378, R136: every variable id but the two status words the block builds is refused. -/
def Obligations.DebugWordShowsListedBits : Prop :=
  ∀ s : State, s.scan.started = true →
    ∃ w, exec (.swRead s.cfg.varStatusDebug) s
        = .next { s with draws := { s.draws with count := s.draws.count + 1 }, result := .word w }
      ∧ w.getLsbD 4 = s.st inRelay1 ∧ w.getLsbD 5 = s.st inRelay2
      ∧ w.getLsbD 6 = s.active.doorRelay ∧ w.getLsbD 7 = s.active.contacts ∧ w.getLsbD 8 = s.active.latchError
      ∧ w.getLsbD 9 = s.st inV12 ∧ w.getLsbD 10 = s.st inV24 ∧ w.getLsbD 11 = s.st inFuse12
      ∧ ∀ var, var ≠ s.cfg.varStatusDebug → var ≠ s.cfg.varStatusActive →
          exec (.swRead var) s = .refused .variableNotBuilt

/-- Rules R374, R375, R376, R378: the listed bits of the active word and its temperature byte, which is free before the
first sample. That halves round upward and that the byte is taken from the published reading is the spec's own (R375,
D21, D41). Reading changes nothing but the number of the next draw (the model's, log entry 3). -/
def Obligations.ActiveWordShowsListedBits : Prop :=
  ∀ s : State, s.scan.started = true → s.cfg.varStatusActive ≠ s.cfg.varStatusDebug →
    ∃ w, exec (.swRead s.cfg.varStatusActive) s
        = .next { s with draws := { s.draws with count := s.draws.count + 1 }, result := .word w }
      ∧ w.getLsbD 0 = s.st inDoor ∧ w.getLsbD 1 = s.st inEstop ∧ w.getLsbD 2 = s.st inKey ∧ w.getLsbD 3 = s.st inBdo
      ∧ w.getLsbD 4 = s.active.latchError ∧ w.getLsbD 5 = (s.thermal.bypass || !s.thermal.fault)
      ∧ ∀ th, s.thermal.reading = some th →
          (w.extractLsb' 8 8).toNat = if th.temp.toInt < 0 then 0 else min 255 ((th.temp.toInt.toNat + 2) / 4)

/-! ## The whole machine -/

/-- Every step keeps the canonical form of the NVM. -/
def Obligations.StepKeepsNvmCanonical : Prop :=
  ∀ s t : State, s.nvm.wf → step s = .next t → t.nvm.wf

/-- Every step keeps the invariants the spec gives the state: the debounce counters stay below DEBOUNCE_N (R22, R173),
the evaluators' edge memories agree with the reported flags (R36, R209), every ring buffer and parser stays consistent
(R50, R270, R30, R82), while `sw_fault_latched` is 1 the laser is off and the latches are in fault (R205, R206, R258),
no append is in flight and the cursor is a slot (R30), the queue is bounded (R45). -/
def Obligations.StepKeepsInvariant : Prop :=
  ∀ s t : State, s.cfg.wf = true → 2 ≤ s.cfg.fpBufLen → Inv s → step s = .next t → Inv t

/-- Rules R6, R9, R333: no step changes the configuration, and the event trace and the list of NVM transactions only
grow. -/
def Obligations.TracesOnlyGrow : Prop :=
  ∀ s t : State, step s = .next t → t.cfg = s.cfg ∧ s.events <+: t.events ∧ s.nvmOps <+: t.nvmOps

/-- Rule R417, the sharing discipline, and rules R20, R35, R40 to R45: which agent may write which shared element, and
in which direction. A reset, or a power loss that cuts an append, is not an agent's write and is left out by the
premise. The agents are those of rule R3, with FL_APPEND by itself counted as the Host's (log entry 8) and a whole frame
as the LinkConsumer's (log entry 7); where R417 lists RxProducer and LinkConsumer for the links, the Host stands beside
them for the operations by which rule R3 lets it drive a link's components directly (log entry 8). -/
def Obligations.SharingDiscipline : Prop :=
  ∀ (i : Instr) (s t : State), exec i s = .next t → i ≠ .coldReset → i ≠ .powerLoss →
    ((∃ code flags msg now, i = .flAppend code flags msg now) ∨ (∃ now, i = .logWrite now) →
      s.draws.cutAnswer = none) →
    let a := agentOf i
    (a ≠ .scan → t.scan = s.scan ∧ t.active = s.active ∧ t.rules = s.rules)
    ∧ (s.safety.forceError = false → t.safety.forceError = true → a = .scan ∨ a = .thermal ∨ a = .forceHandler)
    ∧ (s.safety.forceError = true → t.safety.forceError = false → a = .resetHandler)
    ∧ (s.safety.faultLatched = false → t.safety.faultLatched = true → a = .scan ∨ a = .forceHandler)
    ∧ (s.safety.faultLatched = true → t.safety.faultLatched = false → a = .resetHandler)
    ∧ (s.safety.laserLatchedOff = false → t.safety.laserLatchedOff = true →
        a = .scan ∨ a = .thermal ∨ a = .forceHandler)
    ∧ (s.safety.laserLatchedOff = true → t.safety.laserLatchedOff = false → a = .resetHandler)
    ∧ (t.latchQ ≠ s.latchQ → a = .scan ∨ a = .forceHandler ∨ a = .resetHandler)
    ∧ (a ≠ .thermal → t.thermal.fault = s.thermal.fault ∧ t.thermal.tripTemp = s.thermal.tripTemp
        ∧ t.thermal.reading = s.thermal.reading)
    ∧ (a ≠ .host → t.thermal.bypass = s.thermal.bypass)
    ∧ (a ≠ .scan → a ≠ .thermal → a ≠ .logWriter → t.logq = s.logq)
    ∧ (a = .scan ∨ a = .thermal → s.logq <+: t.logq)
    ∧ (a = .logWriter → ∃ r, s.logq = r :: t.logq)
    ∧ (s.signals.resetPending = false → t.signals.resetPending = true → a = .host)
    ∧ (s.signals.resetPending = true → t.signals.resetPending = false → a = .resetHandler)
    ∧ (s.signals.forcePending = false → t.signals.forcePending = true → a = .host)
    ∧ (s.signals.forcePending = true → t.signals.forcePending = false → a = .forceHandler)
    ∧ (a ≠ .host → t.signals.btnSeen = s.signals.btnSeen ∧ t.signals.btnLastMs = s.signals.btnLastMs)
    ∧ (a ≠ .logWriter → a ≠ .host → t.flash = s.flash ∧ t.nvm = s.nvm ∧ t.nvmOps = s.nvmOps)
    ∧ (a ≠ .rxProducer → a ≠ .linkConsumer → a ≠ .host → t.links = s.links)
    ∧ (∀ link b l, i = .ldRxByte link b → s.links[link.toNat]? = some l →
        ∃ l', t.links[link.toNat]? = some l' ∧ l'.rbTail = l.rbTail ∧ l'.fpState = l.fpState ∧ l'.fpIdx = l.fpIdx
          ∧ l'.fpExpected = l.fpExpected ∧ l'.fpBuf = l.fpBuf)
    ∧ (∀ link l, i = .ldPoll link → s.links[link.toNat]? = some l →
        ∃ l', t.links[link.toNat]? = some l' ∧ l'.rbHead = l.rbHead ∧ l'.rbBuf = l.rbBuf)
end

