-- ==== Sys2Proof/Laws/State.lean ====
section
/-! SUPPORT. One lemma for each field of the state under each of its updates. -/

namespace Sys2Proof.Machine

variable (s : State)

@[simp] theorem State.setScan_cfg (x : Scanner) : (s.setScan x).cfg = s.cfg := rfl
@[simp] theorem State.setScan_scan (x : Scanner) : (s.setScan x).scan = x := rfl
@[simp] theorem State.setScan_active (x : Scanner) : (s.setScan x).active = s.active := rfl
@[simp] theorem State.setScan_rules (x : Scanner) : (s.setScan x).rules = s.rules := rfl
@[simp] theorem State.setScan_safety (x : Scanner) : (s.setScan x).safety = s.safety := rfl
@[simp] theorem State.setScan_thermal (x : Scanner) : (s.setScan x).thermal = s.thermal := rfl
@[simp] theorem State.setScan_latchQ (x : Scanner) : (s.setScan x).latchQ = s.latchQ := rfl
@[simp] theorem State.setScan_signals (x : Scanner) : (s.setScan x).signals = s.signals := rfl
@[simp] theorem State.setScan_flash (x : Scanner) : (s.setScan x).flash = s.flash := rfl
@[simp] theorem State.setScan_logq (x : Scanner) : (s.setScan x).logq = s.logq := rfl
@[simp] theorem State.setScan_links (x : Scanner) : (s.setScan x).links = s.links := rfl
@[simp] theorem State.setScan_nvm (x : Scanner) : (s.setScan x).nvm = s.nvm := rfl
@[simp] theorem State.setScan_events (x : Scanner) : (s.setScan x).events = s.events := rfl
@[simp] theorem State.setScan_nvmOps (x : Scanner) : (s.setScan x).nvmOps = s.nvmOps := rfl
@[simp] theorem State.setScan_result (x : Scanner) : (s.setScan x).result = s.result := rfl
@[simp] theorem State.setScan_draws (x : Scanner) : (s.setScan x).draws = s.draws := rfl
@[simp] theorem State.setScan_inbox (x : Scanner) : (s.setScan x).inbox = s.inbox := rfl
@[simp] theorem State.setScan_lastNow (x : Scanner) : (s.setScan x).lastNow = s.lastNow := rfl

@[simp] theorem State.setActive_cfg (x : ActiveFlags) : (s.setActive x).cfg = s.cfg := rfl
@[simp] theorem State.setActive_scan (x : ActiveFlags) : (s.setActive x).scan = s.scan := rfl
@[simp] theorem State.setActive_active (x : ActiveFlags) : (s.setActive x).active = x := rfl
@[simp] theorem State.setActive_rules (x : ActiveFlags) : (s.setActive x).rules = s.rules := rfl
@[simp] theorem State.setActive_safety (x : ActiveFlags) : (s.setActive x).safety = s.safety := rfl
@[simp] theorem State.setActive_thermal (x : ActiveFlags) : (s.setActive x).thermal = s.thermal := rfl
@[simp] theorem State.setActive_latchQ (x : ActiveFlags) : (s.setActive x).latchQ = s.latchQ := rfl
@[simp] theorem State.setActive_signals (x : ActiveFlags) : (s.setActive x).signals = s.signals := rfl
@[simp] theorem State.setActive_flash (x : ActiveFlags) : (s.setActive x).flash = s.flash := rfl
@[simp] theorem State.setActive_logq (x : ActiveFlags) : (s.setActive x).logq = s.logq := rfl
@[simp] theorem State.setActive_links (x : ActiveFlags) : (s.setActive x).links = s.links := rfl
@[simp] theorem State.setActive_nvm (x : ActiveFlags) : (s.setActive x).nvm = s.nvm := rfl
@[simp] theorem State.setActive_events (x : ActiveFlags) : (s.setActive x).events = s.events := rfl
@[simp] theorem State.setActive_nvmOps (x : ActiveFlags) : (s.setActive x).nvmOps = s.nvmOps := rfl
@[simp] theorem State.setActive_result (x : ActiveFlags) : (s.setActive x).result = s.result := rfl
@[simp] theorem State.setActive_draws (x : ActiveFlags) : (s.setActive x).draws = s.draws := rfl
@[simp] theorem State.setActive_inbox (x : ActiveFlags) : (s.setActive x).inbox = s.inbox := rfl
@[simp] theorem State.setActive_lastNow (x : ActiveFlags) : (s.setActive x).lastNow = s.lastNow := rfl

@[simp] theorem State.setRules_cfg (x : RuleState) : (s.setRules x).cfg = s.cfg := rfl
@[simp] theorem State.setRules_scan (x : RuleState) : (s.setRules x).scan = s.scan := rfl
@[simp] theorem State.setRules_active (x : RuleState) : (s.setRules x).active = s.active := rfl
@[simp] theorem State.setRules_rules (x : RuleState) : (s.setRules x).rules = x := rfl
@[simp] theorem State.setRules_safety (x : RuleState) : (s.setRules x).safety = s.safety := rfl
@[simp] theorem State.setRules_thermal (x : RuleState) : (s.setRules x).thermal = s.thermal := rfl
@[simp] theorem State.setRules_latchQ (x : RuleState) : (s.setRules x).latchQ = s.latchQ := rfl
@[simp] theorem State.setRules_signals (x : RuleState) : (s.setRules x).signals = s.signals := rfl
@[simp] theorem State.setRules_flash (x : RuleState) : (s.setRules x).flash = s.flash := rfl
@[simp] theorem State.setRules_logq (x : RuleState) : (s.setRules x).logq = s.logq := rfl
@[simp] theorem State.setRules_links (x : RuleState) : (s.setRules x).links = s.links := rfl
@[simp] theorem State.setRules_nvm (x : RuleState) : (s.setRules x).nvm = s.nvm := rfl
@[simp] theorem State.setRules_events (x : RuleState) : (s.setRules x).events = s.events := rfl
@[simp] theorem State.setRules_nvmOps (x : RuleState) : (s.setRules x).nvmOps = s.nvmOps := rfl
@[simp] theorem State.setRules_result (x : RuleState) : (s.setRules x).result = s.result := rfl
@[simp] theorem State.setRules_draws (x : RuleState) : (s.setRules x).draws = s.draws := rfl
@[simp] theorem State.setRules_inbox (x : RuleState) : (s.setRules x).inbox = s.inbox := rfl
@[simp] theorem State.setRules_lastNow (x : RuleState) : (s.setRules x).lastNow = s.lastNow := rfl

@[simp] theorem State.setSafety_cfg (x : SafetyFlags) : (s.setSafety x).cfg = s.cfg := rfl
@[simp] theorem State.setSafety_scan (x : SafetyFlags) : (s.setSafety x).scan = s.scan := rfl
@[simp] theorem State.setSafety_active (x : SafetyFlags) : (s.setSafety x).active = s.active := rfl
@[simp] theorem State.setSafety_rules (x : SafetyFlags) : (s.setSafety x).rules = s.rules := rfl
@[simp] theorem State.setSafety_safety (x : SafetyFlags) : (s.setSafety x).safety = x := rfl
@[simp] theorem State.setSafety_thermal (x : SafetyFlags) : (s.setSafety x).thermal = s.thermal := rfl
@[simp] theorem State.setSafety_latchQ (x : SafetyFlags) : (s.setSafety x).latchQ = s.latchQ := rfl
@[simp] theorem State.setSafety_signals (x : SafetyFlags) : (s.setSafety x).signals = s.signals := rfl
@[simp] theorem State.setSafety_flash (x : SafetyFlags) : (s.setSafety x).flash = s.flash := rfl
@[simp] theorem State.setSafety_logq (x : SafetyFlags) : (s.setSafety x).logq = s.logq := rfl
@[simp] theorem State.setSafety_links (x : SafetyFlags) : (s.setSafety x).links = s.links := rfl
@[simp] theorem State.setSafety_nvm (x : SafetyFlags) : (s.setSafety x).nvm = s.nvm := rfl
@[simp] theorem State.setSafety_events (x : SafetyFlags) : (s.setSafety x).events = s.events := rfl
@[simp] theorem State.setSafety_nvmOps (x : SafetyFlags) : (s.setSafety x).nvmOps = s.nvmOps := rfl
@[simp] theorem State.setSafety_result (x : SafetyFlags) : (s.setSafety x).result = s.result := rfl
@[simp] theorem State.setSafety_draws (x : SafetyFlags) : (s.setSafety x).draws = s.draws := rfl
@[simp] theorem State.setSafety_inbox (x : SafetyFlags) : (s.setSafety x).inbox = s.inbox := rfl
@[simp] theorem State.setSafety_lastNow (x : SafetyFlags) : (s.setSafety x).lastNow = s.lastNow := rfl

@[simp] theorem State.setThermal_cfg (x : ThermalGuard) : (s.setThermal x).cfg = s.cfg := rfl
@[simp] theorem State.setThermal_scan (x : ThermalGuard) : (s.setThermal x).scan = s.scan := rfl
@[simp] theorem State.setThermal_active (x : ThermalGuard) : (s.setThermal x).active = s.active := rfl
@[simp] theorem State.setThermal_rules (x : ThermalGuard) : (s.setThermal x).rules = s.rules := rfl
@[simp] theorem State.setThermal_safety (x : ThermalGuard) : (s.setThermal x).safety = s.safety := rfl
@[simp] theorem State.setThermal_thermal (x : ThermalGuard) : (s.setThermal x).thermal = x := rfl
@[simp] theorem State.setThermal_latchQ (x : ThermalGuard) : (s.setThermal x).latchQ = s.latchQ := rfl
@[simp] theorem State.setThermal_signals (x : ThermalGuard) : (s.setThermal x).signals = s.signals := rfl
@[simp] theorem State.setThermal_flash (x : ThermalGuard) : (s.setThermal x).flash = s.flash := rfl
@[simp] theorem State.setThermal_logq (x : ThermalGuard) : (s.setThermal x).logq = s.logq := rfl
@[simp] theorem State.setThermal_links (x : ThermalGuard) : (s.setThermal x).links = s.links := rfl
@[simp] theorem State.setThermal_nvm (x : ThermalGuard) : (s.setThermal x).nvm = s.nvm := rfl
@[simp] theorem State.setThermal_events (x : ThermalGuard) : (s.setThermal x).events = s.events := rfl
@[simp] theorem State.setThermal_nvmOps (x : ThermalGuard) : (s.setThermal x).nvmOps = s.nvmOps := rfl
@[simp] theorem State.setThermal_result (x : ThermalGuard) : (s.setThermal x).result = s.result := rfl
@[simp] theorem State.setThermal_draws (x : ThermalGuard) : (s.setThermal x).draws = s.draws := rfl
@[simp] theorem State.setThermal_inbox (x : ThermalGuard) : (s.setThermal x).inbox = s.inbox := rfl
@[simp] theorem State.setThermal_lastNow (x : ThermalGuard) : (s.setThermal x).lastNow = s.lastNow := rfl

@[simp] theorem State.setLatchQ_cfg (x : List Bool) : (s.setLatchQ x).cfg = s.cfg := rfl
@[simp] theorem State.setLatchQ_scan (x : List Bool) : (s.setLatchQ x).scan = s.scan := rfl
@[simp] theorem State.setLatchQ_active (x : List Bool) : (s.setLatchQ x).active = s.active := rfl
@[simp] theorem State.setLatchQ_rules (x : List Bool) : (s.setLatchQ x).rules = s.rules := rfl
@[simp] theorem State.setLatchQ_safety (x : List Bool) : (s.setLatchQ x).safety = s.safety := rfl
@[simp] theorem State.setLatchQ_thermal (x : List Bool) : (s.setLatchQ x).thermal = s.thermal := rfl
@[simp] theorem State.setLatchQ_latchQ (x : List Bool) : (s.setLatchQ x).latchQ = x := rfl
@[simp] theorem State.setLatchQ_signals (x : List Bool) : (s.setLatchQ x).signals = s.signals := rfl
@[simp] theorem State.setLatchQ_flash (x : List Bool) : (s.setLatchQ x).flash = s.flash := rfl
@[simp] theorem State.setLatchQ_logq (x : List Bool) : (s.setLatchQ x).logq = s.logq := rfl
@[simp] theorem State.setLatchQ_links (x : List Bool) : (s.setLatchQ x).links = s.links := rfl
@[simp] theorem State.setLatchQ_nvm (x : List Bool) : (s.setLatchQ x).nvm = s.nvm := rfl
@[simp] theorem State.setLatchQ_events (x : List Bool) : (s.setLatchQ x).events = s.events := rfl
@[simp] theorem State.setLatchQ_nvmOps (x : List Bool) : (s.setLatchQ x).nvmOps = s.nvmOps := rfl
@[simp] theorem State.setLatchQ_result (x : List Bool) : (s.setLatchQ x).result = s.result := rfl
@[simp] theorem State.setLatchQ_draws (x : List Bool) : (s.setLatchQ x).draws = s.draws := rfl
@[simp] theorem State.setLatchQ_inbox (x : List Bool) : (s.setLatchQ x).inbox = s.inbox := rfl
@[simp] theorem State.setLatchQ_lastNow (x : List Bool) : (s.setLatchQ x).lastNow = s.lastNow := rfl

@[simp] theorem State.setSignals_cfg (x : Signals) : (s.setSignals x).cfg = s.cfg := rfl
@[simp] theorem State.setSignals_scan (x : Signals) : (s.setSignals x).scan = s.scan := rfl
@[simp] theorem State.setSignals_active (x : Signals) : (s.setSignals x).active = s.active := rfl
@[simp] theorem State.setSignals_rules (x : Signals) : (s.setSignals x).rules = s.rules := rfl
@[simp] theorem State.setSignals_safety (x : Signals) : (s.setSignals x).safety = s.safety := rfl
@[simp] theorem State.setSignals_thermal (x : Signals) : (s.setSignals x).thermal = s.thermal := rfl
@[simp] theorem State.setSignals_latchQ (x : Signals) : (s.setSignals x).latchQ = s.latchQ := rfl
@[simp] theorem State.setSignals_signals (x : Signals) : (s.setSignals x).signals = x := rfl
@[simp] theorem State.setSignals_flash (x : Signals) : (s.setSignals x).flash = s.flash := rfl
@[simp] theorem State.setSignals_logq (x : Signals) : (s.setSignals x).logq = s.logq := rfl
@[simp] theorem State.setSignals_links (x : Signals) : (s.setSignals x).links = s.links := rfl
@[simp] theorem State.setSignals_nvm (x : Signals) : (s.setSignals x).nvm = s.nvm := rfl
@[simp] theorem State.setSignals_events (x : Signals) : (s.setSignals x).events = s.events := rfl
@[simp] theorem State.setSignals_nvmOps (x : Signals) : (s.setSignals x).nvmOps = s.nvmOps := rfl
@[simp] theorem State.setSignals_result (x : Signals) : (s.setSignals x).result = s.result := rfl
@[simp] theorem State.setSignals_draws (x : Signals) : (s.setSignals x).draws = s.draws := rfl
@[simp] theorem State.setSignals_inbox (x : Signals) : (s.setSignals x).inbox = s.inbox := rfl
@[simp] theorem State.setSignals_lastNow (x : Signals) : (s.setSignals x).lastNow = s.lastNow := rfl

@[simp] theorem State.setFlash_cfg (x : FlashLog) : (s.setFlash x).cfg = s.cfg := rfl
@[simp] theorem State.setFlash_scan (x : FlashLog) : (s.setFlash x).scan = s.scan := rfl
@[simp] theorem State.setFlash_active (x : FlashLog) : (s.setFlash x).active = s.active := rfl
@[simp] theorem State.setFlash_rules (x : FlashLog) : (s.setFlash x).rules = s.rules := rfl
@[simp] theorem State.setFlash_safety (x : FlashLog) : (s.setFlash x).safety = s.safety := rfl
@[simp] theorem State.setFlash_thermal (x : FlashLog) : (s.setFlash x).thermal = s.thermal := rfl
@[simp] theorem State.setFlash_latchQ (x : FlashLog) : (s.setFlash x).latchQ = s.latchQ := rfl
@[simp] theorem State.setFlash_signals (x : FlashLog) : (s.setFlash x).signals = s.signals := rfl
@[simp] theorem State.setFlash_flash (x : FlashLog) : (s.setFlash x).flash = x := rfl
@[simp] theorem State.setFlash_logq (x : FlashLog) : (s.setFlash x).logq = s.logq := rfl
@[simp] theorem State.setFlash_links (x : FlashLog) : (s.setFlash x).links = s.links := rfl
@[simp] theorem State.setFlash_nvm (x : FlashLog) : (s.setFlash x).nvm = s.nvm := rfl
@[simp] theorem State.setFlash_events (x : FlashLog) : (s.setFlash x).events = s.events := rfl
@[simp] theorem State.setFlash_nvmOps (x : FlashLog) : (s.setFlash x).nvmOps = s.nvmOps := rfl
@[simp] theorem State.setFlash_result (x : FlashLog) : (s.setFlash x).result = s.result := rfl
@[simp] theorem State.setFlash_draws (x : FlashLog) : (s.setFlash x).draws = s.draws := rfl
@[simp] theorem State.setFlash_inbox (x : FlashLog) : (s.setFlash x).inbox = s.inbox := rfl
@[simp] theorem State.setFlash_lastNow (x : FlashLog) : (s.setFlash x).lastNow = s.lastNow := rfl

@[simp] theorem State.setLogq_cfg (x : List LogRequest) : (s.setLogq x).cfg = s.cfg := rfl
@[simp] theorem State.setLogq_scan (x : List LogRequest) : (s.setLogq x).scan = s.scan := rfl
@[simp] theorem State.setLogq_active (x : List LogRequest) : (s.setLogq x).active = s.active := rfl
@[simp] theorem State.setLogq_rules (x : List LogRequest) : (s.setLogq x).rules = s.rules := rfl
@[simp] theorem State.setLogq_safety (x : List LogRequest) : (s.setLogq x).safety = s.safety := rfl
@[simp] theorem State.setLogq_thermal (x : List LogRequest) : (s.setLogq x).thermal = s.thermal := rfl
@[simp] theorem State.setLogq_latchQ (x : List LogRequest) : (s.setLogq x).latchQ = s.latchQ := rfl
@[simp] theorem State.setLogq_signals (x : List LogRequest) : (s.setLogq x).signals = s.signals := rfl
@[simp] theorem State.setLogq_flash (x : List LogRequest) : (s.setLogq x).flash = s.flash := rfl
@[simp] theorem State.setLogq_logq (x : List LogRequest) : (s.setLogq x).logq = x := rfl
@[simp] theorem State.setLogq_links (x : List LogRequest) : (s.setLogq x).links = s.links := rfl
@[simp] theorem State.setLogq_nvm (x : List LogRequest) : (s.setLogq x).nvm = s.nvm := rfl
@[simp] theorem State.setLogq_events (x : List LogRequest) : (s.setLogq x).events = s.events := rfl
@[simp] theorem State.setLogq_nvmOps (x : List LogRequest) : (s.setLogq x).nvmOps = s.nvmOps := rfl
@[simp] theorem State.setLogq_result (x : List LogRequest) : (s.setLogq x).result = s.result := rfl
@[simp] theorem State.setLogq_draws (x : List LogRequest) : (s.setLogq x).draws = s.draws := rfl
@[simp] theorem State.setLogq_inbox (x : List LogRequest) : (s.setLogq x).inbox = s.inbox := rfl
@[simp] theorem State.setLogq_lastNow (x : List LogRequest) : (s.setLogq x).lastNow = s.lastNow := rfl

@[simp] theorem State.setLinks_cfg (x : List Link) : (s.setLinks x).cfg = s.cfg := rfl
@[simp] theorem State.setLinks_scan (x : List Link) : (s.setLinks x).scan = s.scan := rfl
@[simp] theorem State.setLinks_active (x : List Link) : (s.setLinks x).active = s.active := rfl
@[simp] theorem State.setLinks_rules (x : List Link) : (s.setLinks x).rules = s.rules := rfl
@[simp] theorem State.setLinks_safety (x : List Link) : (s.setLinks x).safety = s.safety := rfl
@[simp] theorem State.setLinks_thermal (x : List Link) : (s.setLinks x).thermal = s.thermal := rfl
@[simp] theorem State.setLinks_latchQ (x : List Link) : (s.setLinks x).latchQ = s.latchQ := rfl
@[simp] theorem State.setLinks_signals (x : List Link) : (s.setLinks x).signals = s.signals := rfl
@[simp] theorem State.setLinks_flash (x : List Link) : (s.setLinks x).flash = s.flash := rfl
@[simp] theorem State.setLinks_logq (x : List Link) : (s.setLinks x).logq = s.logq := rfl
@[simp] theorem State.setLinks_links (x : List Link) : (s.setLinks x).links = x := rfl
@[simp] theorem State.setLinks_nvm (x : List Link) : (s.setLinks x).nvm = s.nvm := rfl
@[simp] theorem State.setLinks_events (x : List Link) : (s.setLinks x).events = s.events := rfl
@[simp] theorem State.setLinks_nvmOps (x : List Link) : (s.setLinks x).nvmOps = s.nvmOps := rfl
@[simp] theorem State.setLinks_result (x : List Link) : (s.setLinks x).result = s.result := rfl
@[simp] theorem State.setLinks_draws (x : List Link) : (s.setLinks x).draws = s.draws := rfl
@[simp] theorem State.setLinks_inbox (x : List Link) : (s.setLinks x).inbox = s.inbox := rfl
@[simp] theorem State.setLinks_lastNow (x : List Link) : (s.setLinks x).lastNow = s.lastNow := rfl

@[simp] theorem State.setNvm_cfg (x : Memory) : (s.setNvm x).cfg = s.cfg := rfl
@[simp] theorem State.setNvm_scan (x : Memory) : (s.setNvm x).scan = s.scan := rfl
@[simp] theorem State.setNvm_active (x : Memory) : (s.setNvm x).active = s.active := rfl
@[simp] theorem State.setNvm_rules (x : Memory) : (s.setNvm x).rules = s.rules := rfl
@[simp] theorem State.setNvm_safety (x : Memory) : (s.setNvm x).safety = s.safety := rfl
@[simp] theorem State.setNvm_thermal (x : Memory) : (s.setNvm x).thermal = s.thermal := rfl
@[simp] theorem State.setNvm_latchQ (x : Memory) : (s.setNvm x).latchQ = s.latchQ := rfl
@[simp] theorem State.setNvm_signals (x : Memory) : (s.setNvm x).signals = s.signals := rfl
@[simp] theorem State.setNvm_flash (x : Memory) : (s.setNvm x).flash = s.flash := rfl
@[simp] theorem State.setNvm_logq (x : Memory) : (s.setNvm x).logq = s.logq := rfl
@[simp] theorem State.setNvm_links (x : Memory) : (s.setNvm x).links = s.links := rfl
@[simp] theorem State.setNvm_nvm (x : Memory) : (s.setNvm x).nvm = x := rfl
@[simp] theorem State.setNvm_events (x : Memory) : (s.setNvm x).events = s.events := rfl
@[simp] theorem State.setNvm_nvmOps (x : Memory) : (s.setNvm x).nvmOps = s.nvmOps := rfl
@[simp] theorem State.setNvm_result (x : Memory) : (s.setNvm x).result = s.result := rfl
@[simp] theorem State.setNvm_draws (x : Memory) : (s.setNvm x).draws = s.draws := rfl
@[simp] theorem State.setNvm_inbox (x : Memory) : (s.setNvm x).inbox = s.inbox := rfl
@[simp] theorem State.setNvm_lastNow (x : Memory) : (s.setNvm x).lastNow = s.lastNow := rfl

@[simp] theorem State.setEvents_cfg (x : List Event) : (s.setEvents x).cfg = s.cfg := rfl
@[simp] theorem State.setEvents_scan (x : List Event) : (s.setEvents x).scan = s.scan := rfl
@[simp] theorem State.setEvents_active (x : List Event) : (s.setEvents x).active = s.active := rfl
@[simp] theorem State.setEvents_rules (x : List Event) : (s.setEvents x).rules = s.rules := rfl
@[simp] theorem State.setEvents_safety (x : List Event) : (s.setEvents x).safety = s.safety := rfl
@[simp] theorem State.setEvents_thermal (x : List Event) : (s.setEvents x).thermal = s.thermal := rfl
@[simp] theorem State.setEvents_latchQ (x : List Event) : (s.setEvents x).latchQ = s.latchQ := rfl
@[simp] theorem State.setEvents_signals (x : List Event) : (s.setEvents x).signals = s.signals := rfl
@[simp] theorem State.setEvents_flash (x : List Event) : (s.setEvents x).flash = s.flash := rfl
@[simp] theorem State.setEvents_logq (x : List Event) : (s.setEvents x).logq = s.logq := rfl
@[simp] theorem State.setEvents_links (x : List Event) : (s.setEvents x).links = s.links := rfl
@[simp] theorem State.setEvents_nvm (x : List Event) : (s.setEvents x).nvm = s.nvm := rfl
@[simp] theorem State.setEvents_events (x : List Event) : (s.setEvents x).events = x := rfl
@[simp] theorem State.setEvents_nvmOps (x : List Event) : (s.setEvents x).nvmOps = s.nvmOps := rfl
@[simp] theorem State.setEvents_result (x : List Event) : (s.setEvents x).result = s.result := rfl
@[simp] theorem State.setEvents_draws (x : List Event) : (s.setEvents x).draws = s.draws := rfl
@[simp] theorem State.setEvents_inbox (x : List Event) : (s.setEvents x).inbox = s.inbox := rfl
@[simp] theorem State.setEvents_lastNow (x : List Event) : (s.setEvents x).lastNow = s.lastNow := rfl

@[simp] theorem State.setNvmOps_cfg (x : List NvmOp) : (s.setNvmOps x).cfg = s.cfg := rfl
@[simp] theorem State.setNvmOps_scan (x : List NvmOp) : (s.setNvmOps x).scan = s.scan := rfl
@[simp] theorem State.setNvmOps_active (x : List NvmOp) : (s.setNvmOps x).active = s.active := rfl
@[simp] theorem State.setNvmOps_rules (x : List NvmOp) : (s.setNvmOps x).rules = s.rules := rfl
@[simp] theorem State.setNvmOps_safety (x : List NvmOp) : (s.setNvmOps x).safety = s.safety := rfl
@[simp] theorem State.setNvmOps_thermal (x : List NvmOp) : (s.setNvmOps x).thermal = s.thermal := rfl
@[simp] theorem State.setNvmOps_latchQ (x : List NvmOp) : (s.setNvmOps x).latchQ = s.latchQ := rfl
@[simp] theorem State.setNvmOps_signals (x : List NvmOp) : (s.setNvmOps x).signals = s.signals := rfl
@[simp] theorem State.setNvmOps_flash (x : List NvmOp) : (s.setNvmOps x).flash = s.flash := rfl
@[simp] theorem State.setNvmOps_logq (x : List NvmOp) : (s.setNvmOps x).logq = s.logq := rfl
@[simp] theorem State.setNvmOps_links (x : List NvmOp) : (s.setNvmOps x).links = s.links := rfl
@[simp] theorem State.setNvmOps_nvm (x : List NvmOp) : (s.setNvmOps x).nvm = s.nvm := rfl
@[simp] theorem State.setNvmOps_events (x : List NvmOp) : (s.setNvmOps x).events = s.events := rfl
@[simp] theorem State.setNvmOps_nvmOps (x : List NvmOp) : (s.setNvmOps x).nvmOps = x := rfl
@[simp] theorem State.setNvmOps_result (x : List NvmOp) : (s.setNvmOps x).result = s.result := rfl
@[simp] theorem State.setNvmOps_draws (x : List NvmOp) : (s.setNvmOps x).draws = s.draws := rfl
@[simp] theorem State.setNvmOps_inbox (x : List NvmOp) : (s.setNvmOps x).inbox = s.inbox := rfl
@[simp] theorem State.setNvmOps_lastNow (x : List NvmOp) : (s.setNvmOps x).lastNow = s.lastNow := rfl

@[simp] theorem State.setResult_cfg (x : OpResult) : (s.setResult x).cfg = s.cfg := rfl
@[simp] theorem State.setResult_scan (x : OpResult) : (s.setResult x).scan = s.scan := rfl
@[simp] theorem State.setResult_active (x : OpResult) : (s.setResult x).active = s.active := rfl
@[simp] theorem State.setResult_rules (x : OpResult) : (s.setResult x).rules = s.rules := rfl
@[simp] theorem State.setResult_safety (x : OpResult) : (s.setResult x).safety = s.safety := rfl
@[simp] theorem State.setResult_thermal (x : OpResult) : (s.setResult x).thermal = s.thermal := rfl
@[simp] theorem State.setResult_latchQ (x : OpResult) : (s.setResult x).latchQ = s.latchQ := rfl
@[simp] theorem State.setResult_signals (x : OpResult) : (s.setResult x).signals = s.signals := rfl
@[simp] theorem State.setResult_flash (x : OpResult) : (s.setResult x).flash = s.flash := rfl
@[simp] theorem State.setResult_logq (x : OpResult) : (s.setResult x).logq = s.logq := rfl
@[simp] theorem State.setResult_links (x : OpResult) : (s.setResult x).links = s.links := rfl
@[simp] theorem State.setResult_nvm (x : OpResult) : (s.setResult x).nvm = s.nvm := rfl
@[simp] theorem State.setResult_events (x : OpResult) : (s.setResult x).events = s.events := rfl
@[simp] theorem State.setResult_nvmOps (x : OpResult) : (s.setResult x).nvmOps = s.nvmOps := rfl
@[simp] theorem State.setResult_result (x : OpResult) : (s.setResult x).result = x := rfl
@[simp] theorem State.setResult_draws (x : OpResult) : (s.setResult x).draws = s.draws := rfl
@[simp] theorem State.setResult_inbox (x : OpResult) : (s.setResult x).inbox = s.inbox := rfl
@[simp] theorem State.setResult_lastNow (x : OpResult) : (s.setResult x).lastNow = s.lastNow := rfl

@[simp] theorem State.setDraws_cfg (x : Draws) : (s.setDraws x).cfg = s.cfg := rfl
@[simp] theorem State.setDraws_scan (x : Draws) : (s.setDraws x).scan = s.scan := rfl
@[simp] theorem State.setDraws_active (x : Draws) : (s.setDraws x).active = s.active := rfl
@[simp] theorem State.setDraws_rules (x : Draws) : (s.setDraws x).rules = s.rules := rfl
@[simp] theorem State.setDraws_safety (x : Draws) : (s.setDraws x).safety = s.safety := rfl
@[simp] theorem State.setDraws_thermal (x : Draws) : (s.setDraws x).thermal = s.thermal := rfl
@[simp] theorem State.setDraws_latchQ (x : Draws) : (s.setDraws x).latchQ = s.latchQ := rfl
@[simp] theorem State.setDraws_signals (x : Draws) : (s.setDraws x).signals = s.signals := rfl
@[simp] theorem State.setDraws_flash (x : Draws) : (s.setDraws x).flash = s.flash := rfl
@[simp] theorem State.setDraws_logq (x : Draws) : (s.setDraws x).logq = s.logq := rfl
@[simp] theorem State.setDraws_links (x : Draws) : (s.setDraws x).links = s.links := rfl
@[simp] theorem State.setDraws_nvm (x : Draws) : (s.setDraws x).nvm = s.nvm := rfl
@[simp] theorem State.setDraws_events (x : Draws) : (s.setDraws x).events = s.events := rfl
@[simp] theorem State.setDraws_nvmOps (x : Draws) : (s.setDraws x).nvmOps = s.nvmOps := rfl
@[simp] theorem State.setDraws_result (x : Draws) : (s.setDraws x).result = s.result := rfl
@[simp] theorem State.setDraws_draws (x : Draws) : (s.setDraws x).draws = x := rfl
@[simp] theorem State.setDraws_inbox (x : Draws) : (s.setDraws x).inbox = s.inbox := rfl
@[simp] theorem State.setDraws_lastNow (x : Draws) : (s.setDraws x).lastNow = s.lastNow := rfl

@[simp] theorem State.setInbox_cfg (x : List Input) : (s.setInbox x).cfg = s.cfg := rfl
@[simp] theorem State.setInbox_scan (x : List Input) : (s.setInbox x).scan = s.scan := rfl
@[simp] theorem State.setInbox_active (x : List Input) : (s.setInbox x).active = s.active := rfl
@[simp] theorem State.setInbox_rules (x : List Input) : (s.setInbox x).rules = s.rules := rfl
@[simp] theorem State.setInbox_safety (x : List Input) : (s.setInbox x).safety = s.safety := rfl
@[simp] theorem State.setInbox_thermal (x : List Input) : (s.setInbox x).thermal = s.thermal := rfl
@[simp] theorem State.setInbox_latchQ (x : List Input) : (s.setInbox x).latchQ = s.latchQ := rfl
@[simp] theorem State.setInbox_signals (x : List Input) : (s.setInbox x).signals = s.signals := rfl
@[simp] theorem State.setInbox_flash (x : List Input) : (s.setInbox x).flash = s.flash := rfl
@[simp] theorem State.setInbox_logq (x : List Input) : (s.setInbox x).logq = s.logq := rfl
@[simp] theorem State.setInbox_links (x : List Input) : (s.setInbox x).links = s.links := rfl
@[simp] theorem State.setInbox_nvm (x : List Input) : (s.setInbox x).nvm = s.nvm := rfl
@[simp] theorem State.setInbox_events (x : List Input) : (s.setInbox x).events = s.events := rfl
@[simp] theorem State.setInbox_nvmOps (x : List Input) : (s.setInbox x).nvmOps = s.nvmOps := rfl
@[simp] theorem State.setInbox_result (x : List Input) : (s.setInbox x).result = s.result := rfl
@[simp] theorem State.setInbox_draws (x : List Input) : (s.setInbox x).draws = s.draws := rfl
@[simp] theorem State.setInbox_inbox (x : List Input) : (s.setInbox x).inbox = x := rfl
@[simp] theorem State.setInbox_lastNow (x : List Input) : (s.setInbox x).lastNow = s.lastNow := rfl

@[simp] theorem State.setLastNow_cfg (x : Option Word) : (s.setLastNow x).cfg = s.cfg := rfl
@[simp] theorem State.setLastNow_scan (x : Option Word) : (s.setLastNow x).scan = s.scan := rfl
@[simp] theorem State.setLastNow_active (x : Option Word) : (s.setLastNow x).active = s.active := rfl
@[simp] theorem State.setLastNow_rules (x : Option Word) : (s.setLastNow x).rules = s.rules := rfl
@[simp] theorem State.setLastNow_safety (x : Option Word) : (s.setLastNow x).safety = s.safety := rfl
@[simp] theorem State.setLastNow_thermal (x : Option Word) : (s.setLastNow x).thermal = s.thermal := rfl
@[simp] theorem State.setLastNow_latchQ (x : Option Word) : (s.setLastNow x).latchQ = s.latchQ := rfl
@[simp] theorem State.setLastNow_signals (x : Option Word) : (s.setLastNow x).signals = s.signals := rfl
@[simp] theorem State.setLastNow_flash (x : Option Word) : (s.setLastNow x).flash = s.flash := rfl
@[simp] theorem State.setLastNow_logq (x : Option Word) : (s.setLastNow x).logq = s.logq := rfl
@[simp] theorem State.setLastNow_links (x : Option Word) : (s.setLastNow x).links = s.links := rfl
@[simp] theorem State.setLastNow_nvm (x : Option Word) : (s.setLastNow x).nvm = s.nvm := rfl
@[simp] theorem State.setLastNow_events (x : Option Word) : (s.setLastNow x).events = s.events := rfl
@[simp] theorem State.setLastNow_nvmOps (x : Option Word) : (s.setLastNow x).nvmOps = s.nvmOps := rfl
@[simp] theorem State.setLastNow_result (x : Option Word) : (s.setLastNow x).result = s.result := rfl
@[simp] theorem State.setLastNow_draws (x : Option Word) : (s.setLastNow x).draws = s.draws := rfl
@[simp] theorem State.setLastNow_inbox (x : Option Word) : (s.setLastNow x).inbox = s.inbox := rfl
@[simp] theorem State.setLastNow_lastNow (x : Option Word) : (s.setLastNow x).lastNow = x := rfl

end Sys2Proof.Machine
end

