-- ==== Sys2Proof/Laws/Updates.lean ====
section
/-! SUPPORT. One lemma for each field of the state under each small shared update. -/

namespace Sys2Proof.Machine

variable (s : State)

@[simp] theorem State.emit_cfg (e : Event) : (s.emit e).cfg = s.cfg := rfl
@[simp] theorem State.emit_scan (e : Event) : (s.emit e).scan = s.scan := rfl
@[simp] theorem State.emit_active (e : Event) : (s.emit e).active = s.active := rfl
@[simp] theorem State.emit_rules (e : Event) : (s.emit e).rules = s.rules := rfl
@[simp] theorem State.emit_safety (e : Event) : (s.emit e).safety = s.safety := rfl
@[simp] theorem State.emit_thermal (e : Event) : (s.emit e).thermal = s.thermal := rfl
@[simp] theorem State.emit_latchQ (e : Event) : (s.emit e).latchQ = s.latchQ := rfl
@[simp] theorem State.emit_signals (e : Event) : (s.emit e).signals = s.signals := rfl
@[simp] theorem State.emit_flash (e : Event) : (s.emit e).flash = s.flash := rfl
@[simp] theorem State.emit_logq (e : Event) : (s.emit e).logq = s.logq := rfl
@[simp] theorem State.emit_links (e : Event) : (s.emit e).links = s.links := rfl
@[simp] theorem State.emit_nvm (e : Event) : (s.emit e).nvm = s.nvm := rfl
@[simp] theorem State.emit_events (e : Event) : (s.emit e).events = s.events ++ [e] := rfl
@[simp] theorem State.emit_nvmOps (e : Event) : (s.emit e).nvmOps = s.nvmOps := rfl
@[simp] theorem State.emit_result (e : Event) : (s.emit e).result = s.result := rfl
@[simp] theorem State.emit_draws (e : Event) : (s.emit e).draws = s.draws := rfl
@[simp] theorem State.emit_inbox (e : Event) : (s.emit e).inbox = s.inbox := rfl
@[simp] theorem State.emit_lastNow (e : Event) : (s.emit e).lastNow = s.lastNow := rfl

@[simp] theorem State.emitAll_cfg (es : List Event) : (s.emitAll es).cfg = s.cfg := rfl
@[simp] theorem State.emitAll_scan (es : List Event) : (s.emitAll es).scan = s.scan := rfl
@[simp] theorem State.emitAll_active (es : List Event) : (s.emitAll es).active = s.active := rfl
@[simp] theorem State.emitAll_rules (es : List Event) : (s.emitAll es).rules = s.rules := rfl
@[simp] theorem State.emitAll_safety (es : List Event) : (s.emitAll es).safety = s.safety := rfl
@[simp] theorem State.emitAll_thermal (es : List Event) : (s.emitAll es).thermal = s.thermal := rfl
@[simp] theorem State.emitAll_latchQ (es : List Event) : (s.emitAll es).latchQ = s.latchQ := rfl
@[simp] theorem State.emitAll_signals (es : List Event) : (s.emitAll es).signals = s.signals := rfl
@[simp] theorem State.emitAll_flash (es : List Event) : (s.emitAll es).flash = s.flash := rfl
@[simp] theorem State.emitAll_logq (es : List Event) : (s.emitAll es).logq = s.logq := rfl
@[simp] theorem State.emitAll_links (es : List Event) : (s.emitAll es).links = s.links := rfl
@[simp] theorem State.emitAll_nvm (es : List Event) : (s.emitAll es).nvm = s.nvm := rfl
@[simp] theorem State.emitAll_events (es : List Event) : (s.emitAll es).events = s.events ++ es := rfl
@[simp] theorem State.emitAll_nvmOps (es : List Event) : (s.emitAll es).nvmOps = s.nvmOps := rfl
@[simp] theorem State.emitAll_result (es : List Event) : (s.emitAll es).result = s.result := rfl
@[simp] theorem State.emitAll_draws (es : List Event) : (s.emitAll es).draws = s.draws := rfl
@[simp] theorem State.emitAll_inbox (es : List Event) : (s.emitAll es).inbox = s.inbox := rfl
@[simp] theorem State.emitAll_lastNow (es : List Event) : (s.emitAll es).lastNow = s.lastNow := rfl

@[simp] theorem State.countDraw_cfg : (s.countDraw).cfg = s.cfg := rfl
@[simp] theorem State.countDraw_scan : (s.countDraw).scan = s.scan := rfl
@[simp] theorem State.countDraw_active : (s.countDraw).active = s.active := rfl
@[simp] theorem State.countDraw_rules : (s.countDraw).rules = s.rules := rfl
@[simp] theorem State.countDraw_safety : (s.countDraw).safety = s.safety := rfl
@[simp] theorem State.countDraw_thermal : (s.countDraw).thermal = s.thermal := rfl
@[simp] theorem State.countDraw_latchQ : (s.countDraw).latchQ = s.latchQ := rfl
@[simp] theorem State.countDraw_signals : (s.countDraw).signals = s.signals := rfl
@[simp] theorem State.countDraw_flash : (s.countDraw).flash = s.flash := rfl
@[simp] theorem State.countDraw_logq : (s.countDraw).logq = s.logq := rfl
@[simp] theorem State.countDraw_links : (s.countDraw).links = s.links := rfl
@[simp] theorem State.countDraw_nvm : (s.countDraw).nvm = s.nvm := rfl
@[simp] theorem State.countDraw_events : (s.countDraw).events = s.events := rfl
@[simp] theorem State.countDraw_nvmOps : (s.countDraw).nvmOps = s.nvmOps := rfl
@[simp] theorem State.countDraw_result : (s.countDraw).result = s.result := rfl
@[simp] theorem State.countDraw_draws : (s.countDraw).draws = ⟨s.draws.nvm, s.draws.tx, s.draws.cut, s.draws.count + 1⟩ := rfl
@[simp] theorem State.countDraw_inbox : (s.countDraw).inbox = s.inbox := rfl
@[simp] theorem State.countDraw_lastNow : (s.countDraw).lastNow = s.lastNow := rfl

@[simp] theorem State.logNvmOp_cfg (op : NvmOp) : (s.logNvmOp op).cfg = s.cfg := rfl
@[simp] theorem State.logNvmOp_scan (op : NvmOp) : (s.logNvmOp op).scan = s.scan := rfl
@[simp] theorem State.logNvmOp_active (op : NvmOp) : (s.logNvmOp op).active = s.active := rfl
@[simp] theorem State.logNvmOp_rules (op : NvmOp) : (s.logNvmOp op).rules = s.rules := rfl
@[simp] theorem State.logNvmOp_safety (op : NvmOp) : (s.logNvmOp op).safety = s.safety := rfl
@[simp] theorem State.logNvmOp_thermal (op : NvmOp) : (s.logNvmOp op).thermal = s.thermal := rfl
@[simp] theorem State.logNvmOp_latchQ (op : NvmOp) : (s.logNvmOp op).latchQ = s.latchQ := rfl
@[simp] theorem State.logNvmOp_signals (op : NvmOp) : (s.logNvmOp op).signals = s.signals := rfl
@[simp] theorem State.logNvmOp_flash (op : NvmOp) : (s.logNvmOp op).flash = s.flash := rfl
@[simp] theorem State.logNvmOp_logq (op : NvmOp) : (s.logNvmOp op).logq = s.logq := rfl
@[simp] theorem State.logNvmOp_links (op : NvmOp) : (s.logNvmOp op).links = s.links := rfl
@[simp] theorem State.logNvmOp_nvm (op : NvmOp) : (s.logNvmOp op).nvm = s.nvm := rfl
@[simp] theorem State.logNvmOp_events (op : NvmOp) : (s.logNvmOp op).events = s.events := rfl
@[simp] theorem State.logNvmOp_nvmOps (op : NvmOp) : (s.logNvmOp op).nvmOps = s.nvmOps ++ [op] := rfl
@[simp] theorem State.logNvmOp_result (op : NvmOp) : (s.logNvmOp op).result = s.result := rfl
@[simp] theorem State.logNvmOp_draws (op : NvmOp) : (s.logNvmOp op).draws = s.draws := rfl
@[simp] theorem State.logNvmOp_inbox (op : NvmOp) : (s.logNvmOp op).inbox = s.inbox := rfl
@[simp] theorem State.logNvmOp_lastNow (op : NvmOp) : (s.logNvmOp op).lastNow = s.lastNow := rfl

@[simp] theorem State.setLink_cfg (k : Nat) (l : Link) : (s.setLink k l).cfg = s.cfg := rfl
@[simp] theorem State.setLink_scan (k : Nat) (l : Link) : (s.setLink k l).scan = s.scan := rfl
@[simp] theorem State.setLink_active (k : Nat) (l : Link) : (s.setLink k l).active = s.active := rfl
@[simp] theorem State.setLink_rules (k : Nat) (l : Link) : (s.setLink k l).rules = s.rules := rfl
@[simp] theorem State.setLink_safety (k : Nat) (l : Link) : (s.setLink k l).safety = s.safety := rfl
@[simp] theorem State.setLink_thermal (k : Nat) (l : Link) : (s.setLink k l).thermal = s.thermal := rfl
@[simp] theorem State.setLink_latchQ (k : Nat) (l : Link) : (s.setLink k l).latchQ = s.latchQ := rfl
@[simp] theorem State.setLink_signals (k : Nat) (l : Link) : (s.setLink k l).signals = s.signals := rfl
@[simp] theorem State.setLink_flash (k : Nat) (l : Link) : (s.setLink k l).flash = s.flash := rfl
@[simp] theorem State.setLink_logq (k : Nat) (l : Link) : (s.setLink k l).logq = s.logq := rfl
@[simp] theorem State.setLink_links (k : Nat) (l : Link) : (s.setLink k l).links = s.links.set k l := rfl
@[simp] theorem State.setLink_nvm (k : Nat) (l : Link) : (s.setLink k l).nvm = s.nvm := rfl
@[simp] theorem State.setLink_events (k : Nat) (l : Link) : (s.setLink k l).events = s.events := rfl
@[simp] theorem State.setLink_nvmOps (k : Nat) (l : Link) : (s.setLink k l).nvmOps = s.nvmOps := rfl
@[simp] theorem State.setLink_result (k : Nat) (l : Link) : (s.setLink k l).result = s.result := rfl
@[simp] theorem State.setLink_draws (k : Nat) (l : Link) : (s.setLink k l).draws = s.draws := rfl
@[simp] theorem State.setLink_inbox (k : Nat) (l : Link) : (s.setLink k l).inbox = s.inbox := rfl
@[simp] theorem State.setLink_lastNow (k : Nat) (l : Link) : (s.setLink k l).lastNow = s.lastNow := rfl

@[simp] theorem laserDisable_cfg : (laserDisable s).cfg = s.cfg := rfl
@[simp] theorem laserDisable_scan : (laserDisable s).scan = s.scan := rfl
@[simp] theorem laserDisable_active : (laserDisable s).active = s.active := rfl
@[simp] theorem laserDisable_rules : (laserDisable s).rules = s.rules := rfl
@[simp] theorem laserDisable_safety : (laserDisable s).safety = ⟨s.safety.forceError, s.safety.faultLatched, true⟩ := rfl
@[simp] theorem laserDisable_thermal : (laserDisable s).thermal = s.thermal := rfl
@[simp] theorem laserDisable_latchQ : (laserDisable s).latchQ = s.latchQ := rfl
@[simp] theorem laserDisable_signals : (laserDisable s).signals = s.signals := rfl
@[simp] theorem laserDisable_flash : (laserDisable s).flash = s.flash := rfl
@[simp] theorem laserDisable_logq : (laserDisable s).logq = s.logq := rfl
@[simp] theorem laserDisable_links : (laserDisable s).links = s.links := rfl
@[simp] theorem laserDisable_nvm : (laserDisable s).nvm = s.nvm := rfl
@[simp] theorem laserDisable_events : (laserDisable s).events = s.events := rfl
@[simp] theorem laserDisable_nvmOps : (laserDisable s).nvmOps = s.nvmOps := rfl
@[simp] theorem laserDisable_result : (laserDisable s).result = s.result := rfl
@[simp] theorem laserDisable_draws : (laserDisable s).draws = s.draws := rfl
@[simp] theorem laserDisable_inbox : (laserDisable s).inbox = s.inbox := rfl
@[simp] theorem laserDisable_lastNow : (laserDisable s).lastNow = s.lastNow := rfl

@[simp] theorem forceError_cfg : (forceError s).cfg = s.cfg := rfl
@[simp] theorem forceError_scan : (forceError s).scan = s.scan := rfl
@[simp] theorem forceError_active : (forceError s).active = s.active := rfl
@[simp] theorem forceError_rules : (forceError s).rules = s.rules := rfl
@[simp] theorem forceError_safety : (forceError s).safety = ⟨true, s.safety.faultLatched, s.safety.laserLatchedOff⟩ := rfl
@[simp] theorem forceError_thermal : (forceError s).thermal = s.thermal := rfl
@[simp] theorem forceError_latchQ : (forceError s).latchQ = s.latchQ := rfl
@[simp] theorem forceError_signals : (forceError s).signals = s.signals := rfl
@[simp] theorem forceError_flash : (forceError s).flash = s.flash := rfl
@[simp] theorem forceError_logq : (forceError s).logq = s.logq := rfl
@[simp] theorem forceError_links : (forceError s).links = s.links := rfl
@[simp] theorem forceError_nvm : (forceError s).nvm = s.nvm := rfl
@[simp] theorem forceError_events : (forceError s).events = s.events := rfl
@[simp] theorem forceError_nvmOps : (forceError s).nvmOps = s.nvmOps := rfl
@[simp] theorem forceError_result : (forceError s).result = s.result := rfl
@[simp] theorem forceError_draws : (forceError s).draws = s.draws := rfl
@[simp] theorem forceError_inbox : (forceError s).inbox = s.inbox := rfl
@[simp] theorem forceError_lastNow : (forceError s).lastNow = s.lastNow := rfl

@[simp] theorem latchFault_cfg : (latchFault s).cfg = s.cfg := rfl
@[simp] theorem latchFault_scan : (latchFault s).scan = s.scan := rfl
@[simp] theorem latchFault_active : (latchFault s).active = s.active := rfl
@[simp] theorem latchFault_rules : (latchFault s).rules = s.rules := rfl
@[simp] theorem latchFault_safety : (latchFault s).safety = ⟨s.safety.forceError, true, s.safety.laserLatchedOff⟩ := rfl
@[simp] theorem latchFault_thermal : (latchFault s).thermal = s.thermal := rfl
@[simp] theorem latchFault_latchQ : (latchFault s).latchQ = s.latchQ := rfl
@[simp] theorem latchFault_signals : (latchFault s).signals = s.signals := rfl
@[simp] theorem latchFault_flash : (latchFault s).flash = s.flash := rfl
@[simp] theorem latchFault_logq : (latchFault s).logq = s.logq := rfl
@[simp] theorem latchFault_links : (latchFault s).links = s.links := rfl
@[simp] theorem latchFault_nvm : (latchFault s).nvm = s.nvm := rfl
@[simp] theorem latchFault_events : (latchFault s).events = s.events := rfl
@[simp] theorem latchFault_nvmOps : (latchFault s).nvmOps = s.nvmOps := rfl
@[simp] theorem latchFault_result : (latchFault s).result = s.result := rfl
@[simp] theorem latchFault_draws : (latchFault s).draws = s.draws := rfl
@[simp] theorem latchFault_inbox : (latchFault s).inbox = s.inbox := rfl
@[simp] theorem latchFault_lastNow : (latchFault s).lastNow = s.lastNow := rfl

@[simp] theorem latchSequence_cfg (x : LatchCommand) : (latchSequence x s).cfg = s.cfg := rfl
@[simp] theorem latchSequence_scan (x : LatchCommand) : (latchSequence x s).scan = s.scan := rfl
@[simp] theorem latchSequence_active (x : LatchCommand) : (latchSequence x s).active = s.active := rfl
@[simp] theorem latchSequence_rules (x : LatchCommand) : (latchSequence x s).rules = s.rules := rfl
@[simp] theorem latchSequence_safety (x : LatchCommand) : (latchSequence x s).safety = s.safety := rfl
@[simp] theorem latchSequence_thermal (x : LatchCommand) : (latchSequence x s).thermal = s.thermal := rfl
@[simp] theorem latchSequence_latchQ (x : LatchCommand) : (latchSequence x s).latchQ = List.replicate s.cfg.nLatch (x == .rearm) := rfl
@[simp] theorem latchSequence_signals (x : LatchCommand) : (latchSequence x s).signals = s.signals := rfl
@[simp] theorem latchSequence_flash (x : LatchCommand) : (latchSequence x s).flash = s.flash := rfl
@[simp] theorem latchSequence_logq (x : LatchCommand) : (latchSequence x s).logq = s.logq := rfl
@[simp] theorem latchSequence_links (x : LatchCommand) : (latchSequence x s).links = s.links := rfl
@[simp] theorem latchSequence_nvm (x : LatchCommand) : (latchSequence x s).nvm = s.nvm := rfl
@[simp] theorem latchSequence_events (x : LatchCommand) : (latchSequence x s).events = s.events ++ [.latchSeq x] := rfl
@[simp] theorem latchSequence_nvmOps (x : LatchCommand) : (latchSequence x s).nvmOps = s.nvmOps := rfl
@[simp] theorem latchSequence_result (x : LatchCommand) : (latchSequence x s).result = s.result := rfl
@[simp] theorem latchSequence_draws (x : LatchCommand) : (latchSequence x s).draws = s.draws := rfl
@[simp] theorem latchSequence_inbox (x : LatchCommand) : (latchSequence x s).inbox = s.inbox := rfl
@[simp] theorem latchSequence_lastNow (x : LatchCommand) : (latchSequence x s).lastNow = s.lastNow := rfl

@[simp] theorem clearSafetyFaults_cfg : (clearSafetyFaults s).cfg = s.cfg := rfl
@[simp] theorem clearSafetyFaults_scan : (clearSafetyFaults s).scan = s.scan := rfl
@[simp] theorem clearSafetyFaults_active : (clearSafetyFaults s).active = s.active := rfl
@[simp] theorem clearSafetyFaults_rules : (clearSafetyFaults s).rules = s.rules := rfl
@[simp] theorem clearSafetyFaults_safety : (clearSafetyFaults s).safety = ⟨false, false, false⟩ := rfl
@[simp] theorem clearSafetyFaults_thermal : (clearSafetyFaults s).thermal = s.thermal := rfl
@[simp] theorem clearSafetyFaults_latchQ : (clearSafetyFaults s).latchQ = List.replicate s.cfg.nLatch true := rfl
@[simp] theorem clearSafetyFaults_signals : (clearSafetyFaults s).signals = s.signals := rfl
@[simp] theorem clearSafetyFaults_flash : (clearSafetyFaults s).flash = s.flash := rfl
@[simp] theorem clearSafetyFaults_logq : (clearSafetyFaults s).logq = s.logq := rfl
@[simp] theorem clearSafetyFaults_links : (clearSafetyFaults s).links = s.links := rfl
@[simp] theorem clearSafetyFaults_nvm : (clearSafetyFaults s).nvm = s.nvm := rfl
@[simp] theorem clearSafetyFaults_events : (clearSafetyFaults s).events = s.events ++ [.latchSeq .rearm] := rfl
@[simp] theorem clearSafetyFaults_nvmOps : (clearSafetyFaults s).nvmOps = s.nvmOps := rfl
@[simp] theorem clearSafetyFaults_result : (clearSafetyFaults s).result = s.result := rfl
@[simp] theorem clearSafetyFaults_draws : (clearSafetyFaults s).draws = s.draws := rfl
@[simp] theorem clearSafetyFaults_inbox : (clearSafetyFaults s).inbox = s.inbox := rfl
@[simp] theorem clearSafetyFaults_lastNow : (clearSafetyFaults s).lastNow = s.lastNow := rfl

@[simp] theorem setPhase_cfg (p : FlPhase) : (setPhase p s).cfg = s.cfg := rfl
@[simp] theorem setPhase_scan (p : FlPhase) : (setPhase p s).scan = s.scan := rfl
@[simp] theorem setPhase_active (p : FlPhase) : (setPhase p s).active = s.active := rfl
@[simp] theorem setPhase_rules (p : FlPhase) : (setPhase p s).rules = s.rules := rfl
@[simp] theorem setPhase_safety (p : FlPhase) : (setPhase p s).safety = s.safety := rfl
@[simp] theorem setPhase_thermal (p : FlPhase) : (setPhase p s).thermal = s.thermal := rfl
@[simp] theorem setPhase_latchQ (p : FlPhase) : (setPhase p s).latchQ = s.latchQ := rfl
@[simp] theorem setPhase_signals (p : FlPhase) : (setPhase p s).signals = s.signals := rfl
@[simp] theorem setPhase_flash (p : FlPhase) : (setPhase p s).flash = ⟨s.flash.inited, s.flash.cursor, s.flash.nextSeq, s.flash.status, p⟩ := rfl
@[simp] theorem setPhase_logq (p : FlPhase) : (setPhase p s).logq = s.logq := rfl
@[simp] theorem setPhase_links (p : FlPhase) : (setPhase p s).links = s.links := rfl
@[simp] theorem setPhase_nvm (p : FlPhase) : (setPhase p s).nvm = s.nvm := rfl
@[simp] theorem setPhase_events (p : FlPhase) : (setPhase p s).events = s.events := rfl
@[simp] theorem setPhase_nvmOps (p : FlPhase) : (setPhase p s).nvmOps = s.nvmOps := rfl
@[simp] theorem setPhase_result (p : FlPhase) : (setPhase p s).result = s.result := rfl
@[simp] theorem setPhase_draws (p : FlPhase) : (setPhase p s).draws = s.draws := rfl
@[simp] theorem setPhase_inbox (p : FlPhase) : (setPhase p s).inbox = s.inbox := rfl
@[simp] theorem setPhase_lastNow (p : FlPhase) : (setPhase p s).lastNow = s.lastNow := rfl

@[simp] theorem flBegin_cfg : (flBegin s).cfg = s.cfg := rfl
@[simp] theorem flBegin_scan : (flBegin s).scan = s.scan := rfl
@[simp] theorem flBegin_active : (flBegin s).active = s.active := rfl
@[simp] theorem flBegin_rules : (flBegin s).rules = s.rules := rfl
@[simp] theorem flBegin_safety : (flBegin s).safety = s.safety := rfl
@[simp] theorem flBegin_thermal : (flBegin s).thermal = s.thermal := rfl
@[simp] theorem flBegin_latchQ : (flBegin s).latchQ = s.latchQ := rfl
@[simp] theorem flBegin_signals : (flBegin s).signals = s.signals := rfl
@[simp] theorem flBegin_flash : (flBegin s).flash = ⟨s.flash.inited, s.flash.cursor, s.flash.nextSeq, .ok, s.flash.phase⟩ := rfl
@[simp] theorem flBegin_logq : (flBegin s).logq = s.logq := rfl
@[simp] theorem flBegin_links : (flBegin s).links = s.links := rfl
@[simp] theorem flBegin_nvm : (flBegin s).nvm = s.nvm := rfl
@[simp] theorem flBegin_events : (flBegin s).events = s.events := rfl
@[simp] theorem flBegin_nvmOps : (flBegin s).nvmOps = s.nvmOps := rfl
@[simp] theorem flBegin_result : (flBegin s).result = s.result := rfl
@[simp] theorem flBegin_draws : (flBegin s).draws = s.draws := rfl
@[simp] theorem flBegin_inbox : (flBegin s).inbox = s.inbox := rfl
@[simp] theorem flBegin_lastNow : (flBegin s).lastNow = s.lastNow := rfl

@[simp] theorem flDone_cfg : (flDone s).cfg = s.cfg := rfl
@[simp] theorem flDone_scan : (flDone s).scan = s.scan := rfl
@[simp] theorem flDone_active : (flDone s).active = s.active := rfl
@[simp] theorem flDone_rules : (flDone s).rules = s.rules := rfl
@[simp] theorem flDone_safety : (flDone s).safety = s.safety := rfl
@[simp] theorem flDone_thermal : (flDone s).thermal = s.thermal := rfl
@[simp] theorem flDone_latchQ : (flDone s).latchQ = s.latchQ := rfl
@[simp] theorem flDone_signals : (flDone s).signals = s.signals := rfl
@[simp] theorem flDone_flash : (flDone s).flash = s.flash := rfl
@[simp] theorem flDone_logq : (flDone s).logq = s.logq := rfl
@[simp] theorem flDone_links : (flDone s).links = s.links := rfl
@[simp] theorem flDone_nvm : (flDone s).nvm = s.nvm := rfl
@[simp] theorem flDone_events : (flDone s).events = s.events := rfl
@[simp] theorem flDone_nvmOps : (flDone s).nvmOps = s.nvmOps := rfl
@[simp] theorem flDone_result : (flDone s).result = .status s.flash.status := rfl
@[simp] theorem flDone_draws : (flDone s).draws = s.draws := rfl
@[simp] theorem flDone_inbox : (flDone s).inbox = s.inbox := rfl
@[simp] theorem flDone_lastNow : (flDone s).lastNow = s.lastNow := rfl

@[simp] theorem flFail_cfg (k : IoKind) : (flFail k s).cfg = s.cfg := rfl
@[simp] theorem flFail_scan (k : IoKind) : (flFail k s).scan = s.scan := rfl
@[simp] theorem flFail_active (k : IoKind) : (flFail k s).active = s.active := rfl
@[simp] theorem flFail_rules (k : IoKind) : (flFail k s).rules = s.rules := rfl
@[simp] theorem flFail_safety (k : IoKind) : (flFail k s).safety = s.safety := rfl
@[simp] theorem flFail_thermal (k : IoKind) : (flFail k s).thermal = s.thermal := rfl
@[simp] theorem flFail_latchQ (k : IoKind) : (flFail k s).latchQ = s.latchQ := rfl
@[simp] theorem flFail_signals (k : IoKind) : (flFail k s).signals = s.signals := rfl
@[simp] theorem flFail_flash (k : IoKind) : (flFail k s).flash = ⟨s.flash.inited, s.flash.cursor, s.flash.nextSeq, .fail, .idle⟩ := rfl
@[simp] theorem flFail_logq (k : IoKind) : (flFail k s).logq = s.logq := rfl
@[simp] theorem flFail_links (k : IoKind) : (flFail k s).links = s.links := rfl
@[simp] theorem flFail_nvm (k : IoKind) : (flFail k s).nvm = s.nvm := rfl
@[simp] theorem flFail_events (k : IoKind) : (flFail k s).events = s.events ++ [.ioError k] := rfl
@[simp] theorem flFail_nvmOps (k : IoKind) : (flFail k s).nvmOps = s.nvmOps := rfl
@[simp] theorem flFail_result (k : IoKind) : (flFail k s).result = s.result := rfl
@[simp] theorem flFail_draws (k : IoKind) : (flFail k s).draws = s.draws := rfl
@[simp] theorem flFail_inbox (k : IoKind) : (flFail k s).inbox = s.inbox := rfl
@[simp] theorem flFail_lastNow (k : IoKind) : (flFail k s).lastNow = s.lastNow := rfl

@[simp] theorem volatileReset_cfg : (volatileReset s).cfg = s.cfg := rfl
@[simp] theorem volatileReset_scan : (volatileReset s).scan = (State.resetWith s.cfg).scan := rfl
@[simp] theorem volatileReset_active : (volatileReset s).active = ⟨false, false, false, false, false⟩ := rfl
@[simp] theorem volatileReset_rules : (volatileReset s).rules = ⟨false, 0, false, false, 0, false, false⟩ := rfl
@[simp] theorem volatileReset_safety : (volatileReset s).safety = ⟨false, false, false⟩ := rfl
@[simp] theorem volatileReset_thermal : (volatileReset s).thermal = ⟨false, none, false, none⟩ := rfl
@[simp] theorem volatileReset_latchQ : (volatileReset s).latchQ = (List.range s.cfg.nLatch).map (Config.freeLatch s.draws.count) := rfl
@[simp] theorem volatileReset_signals : (volatileReset s).signals = ⟨false, false, false, 0⟩ := rfl
@[simp] theorem volatileReset_flash : (volatileReset s).flash = ⟨false, 0, 0, .ok, .idle⟩ := rfl
@[simp] theorem volatileReset_logq : (volatileReset s).logq = [] := rfl
@[simp] theorem volatileReset_links : (volatileReset s).links = List.replicate s.cfg.nLink (Link.reset s.cfg) := rfl
@[simp] theorem volatileReset_nvm : (volatileReset s).nvm = s.nvm := rfl
@[simp] theorem volatileReset_events : (volatileReset s).events = s.events := rfl
@[simp] theorem volatileReset_nvmOps : (volatileReset s).nvmOps = s.nvmOps := rfl
@[simp] theorem volatileReset_result : (volatileReset s).result = .nothing := rfl
@[simp] theorem volatileReset_draws : (volatileReset s).draws = ⟨s.draws.nvm, s.draws.tx, s.draws.cut, s.draws.count + 1⟩ := rfl
@[simp] theorem volatileReset_inbox : (volatileReset s).inbox = s.inbox := rfl
@[simp] theorem volatileReset_lastNow : (volatileReset s).lastNow = none := rfl

end Sys2Proof.Machine
end

