-- ==== Sys2Proof/Laws/Scan.lean ====
section
/-! SUPPORT. What each part of SCAN_TICK does, once: the debounce, the ready update, the edge bookkeeping and the five
evaluators (rules R172 to R175, R193, R197 to R210), each as the record it leaves. -/

namespace Sys2Proof.Machine

/-! Shared procedures. -/

/-- All that a log request does (rule R211). -/
theorem logRequest_eq (k : LogKind) (s : State) :
    logRequest k s = { s with logq := queued s.cfg k s.logq, events := s.events ++ dropped s.cfg s.logq } := by
  unfold logRequest queued dropped
  split <;> simp [State.setLogq, State.emit, State.setEvents]

/-- The RULE event of an edge, if there is one. -/
def edgeEvents (r : RuleId) (was now : Bool) : List Event :=
  if was = now then [] else [.rule r (if now then .activate else .clear)]

theorem ActiveFlags.set_get (a : ActiveFlags) (r : RuleId) : a.set r (a.get r) = a := by
  cases r <;> rfl

@[simp] theorem ActiveFlags.get_set (a : ActiveFlags) (r r' : RuleId) (v : Bool) :
    (a.set r v).get r' = if r' = r then v else a.get r' := by
  cases r <;> cases r' <;> rfl

/-- All that the edge bookkeeping does (rule R193). -/
theorem reportEdge_eq (r : RuleId) (v : Bool) (s : State) :
    reportEdge r v s
      = { s with active := s.active.set r v, events := s.events ++ edgeEvents r (s.active.get r) v } := by
  cases hv : v <;> cases ha : s.active.get r <;>
    simp only [reportEdge, edgeOf, ha, edgeEvents, reduceCtorEq, if_false, if_true, List.append_nil]
  · rw [← ha, ActiveFlags.set_get]
  · rfl
  · rfl
  · rw [← ha, ActiveFlags.set_get]

/-! The evaluators. -/

/-- Rule 1: its result and its private state. -/
def ruleOne (now : Word) (s : State) : Bool × RuleState :=
  if s.cfg.r1DisarmOnAny && !all4 s then (false, { s.rules with r1ArmRunning := false, r1Armed := false })
  else if !s.cfg.r1DisarmOnAny && !s.st inDoor then (false, { s.rules with r1ArmRunning := false, r1Armed := false })
  else if !s.cfg.r1DisarmOnAny && !s.rules.r1Armed && !all4 s then (false, { s.rules with r1ArmRunning := false })
  else ((armTimer s.cfg now s.rules).r1Armed && s.st inDoor && (!s.st inRelay1 || !s.st inRelay2),
    armTimer s.cfg now s.rules)

theorem evalDoorRelay_eq (now : Word) (s : State) :
    evalDoorRelay now s = ((ruleOne now s).1, { s with rules := (ruleOne now s).2 }) := by
  unfold evalDoorRelay ruleOne
  dsimp only
  split
  · rfl
  · split
    · rfl
    · split <;> rfl

/-- Rule 1 keeps to its own registers. -/
theorem ruleOne_frame (now : Word) (s : State) :
    (ruleOne now s).2.r2SettleRunning = s.rules.r2SettleRunning ∧ (ruleOne now s).2.r2SettleT0 = s.rules.r2SettleT0
      ∧ (ruleOne now s).2.r2Last = s.rules.r2Last ∧ (ruleOne now s).2.r4Last = s.rules.r4Last := by
  unfold ruleOne armTimer
  dsimp only
  repeat' split
  all_goals simp

/-- Rule 2: whether it is not suppressed. -/
def ruleTwoWatches (s : State) : Bool := all4 s && bothRelays s

/-- Rule 2: its settle start. -/
def ruleTwoStart (now : Word) (s : State) : Word := if s.rules.r2SettleRunning then s.rules.r2SettleT0 else now

/-- Rule 2: its result. -/
def ruleTwo (now : Word) (s : State) : Bool :=
  ruleTwoWatches s && (decide (s.cfg.settleMs ≤ elapsed now (ruleTwoStart now s)) && contactMismatch s)

theorem evalContacts_eq (now : Word) (s : State) :
    evalContacts now s = (ruleTwo now s, { s with
      rules  := { s.rules with
        r2SettleRunning := ruleTwoWatches s
        r2SettleT0      := if ruleTwoWatches s then ruleTwoStart now s else s.rules.r2SettleT0
        r2Last          := ruleTwo now s }
      safety := { s.safety with
        forceError := s.safety.forceError || ruleTwo now s && (!s.cfg.r2ForceOnEdgeOnly || !s.rules.r2Last) } }) := by
  unfold evalContacts
  by_cases h : all4 s && bothRelays s
  · simp only [h, if_true, ruleTwo, ruleTwoWatches, Bool.true_and]
    have ht : (settleTimer now s.rules).r2SettleT0 = ruleTwoStart now s := by
      unfold settleTimer ruleTwoStart; split <;> rfl
    have hr : (settleTimer now s.rules) = { s.rules with r2SettleRunning := true, r2SettleT0 := ruleTwoStart now s } := by
      unfold settleTimer ruleTwoStart
      split
      · rename_i h; simp only [← h]
      · rfl
    simp only [ht]
    generalize (decide (s.cfg.settleMs ≤ elapsed now (ruleTwoStart now s)) && contactMismatch s) = f
    rw [hr]
    split
    · rename_i hc
      simp [raiseCondition, forceError, State.setRules, State.setSafety, hc]
    · rename_i hc
      simp only [Bool.not_eq_true] at hc
      simp [State.setRules, hc]
  · simp only [Bool.not_eq_true] at h
    simp [h, ruleTwo, ruleTwoWatches, State.setRules]

/-- Rule 3: whether it activates. -/
def ruleThreeActs (s : State) : Bool := (latchErrLine s || s.safety.forceError) && !s.safety.faultLatched

theorem evalLatchError_eq (s : State) :
    evalLatchError s = (s.safety.faultLatched || ruleThreeActs s, { s with
      latchQ := if ruleThreeActs s then List.replicate s.cfg.nLatch false else s.latchQ
      safety := ⟨s.safety.forceError, s.safety.faultLatched || ruleThreeActs s,
                  s.safety.laserLatchedOff || ruleThreeActs s⟩
      logq   := if ruleThreeActs s then queued s.cfg .latch s.logq else s.logq
      events := s.events ++ if ruleThreeActs s then .latchSeq .fault :: dropped s.cfg s.logq else [] }) := by
  unfold evalLatchError
  by_cases h : ruleThreeActs s = true
  · have h' := h
    unfold ruleThreeActs at h'
    rw [if_pos h']
    simp only [Bool.and_eq_true, Bool.not_eq_true'] at h'
    simp only [h, raiseCondition, logRequest_eq, h'.2, Bool.or_true, if_true]
    simp [latchFault, laserDisable, latchSequence, State.setSafety, State.setLatchQ, State.emit, State.setEvents]
  · have h' := h
    unfold ruleThreeActs at h'
    rw [if_neg h']
    simp only [Bool.not_eq_true] at h
    simp [h]

/-- Rule 4: whether it activates. -/
def ruleFourActs (s : State) : Bool := railBad s && !s.rules.r4Last

theorem evalPowerGood_eq (s : State) :
    evalPowerGood s = (railBad s, { s with
      rules  := { s.rules with r4Last := railBad s }
      safety := ⟨s.safety.forceError || ruleFourActs s, s.safety.faultLatched,
                  s.safety.laserLatchedOff || ruleFourActs s⟩
      logq   := if ruleFourActs s then queued s.cfg .power s.logq else s.logq
      events := s.events ++ if ruleFourActs s then dropped s.cfg s.logq else [] }) := by
  unfold evalPowerGood
  by_cases h : ruleFourActs s = true
  · have h' := h
    unfold ruleFourActs at h'
    simp only [h', if_true, raiseCondition, logRequest_eq, h, Bool.or_true]
    simp [laserDisable, forceError, State.setSafety, State.setRules]
  · have h' := h
    unfold ruleFourActs at h'
    simp only [Bool.not_eq_true] at h h'
    simp [h, h', State.setRules]

/-! The tick. -/

/-- The force flag rule 3 sees in this tick: rule 2 has run (rule R192). -/
def forceAfterRuleTwo (now : Word) (s : State) : Bool :=
  s.safety.forceError || ruleTwo now s && (!s.cfg.r2ForceOnEdgeOnly || !s.rules.r2Last)

/-- Whether rule 3 activates in this tick, after rule 2. -/
def ruleThreeActsAfter (now : Word) (s : State) : Bool :=
  (latchErrLine s || forceAfterRuleTwo now s) && !s.safety.faultLatched

/-- The state after debounce and ready update: what rule 1 is evaluated in. -/
def snapshot (raw : List Byte) (now : Word) (s : State) : State := readyUpdate now (debounceAll raw s)

theorem execScanTick_eq {raw : List Byte} {now : Word} {s : State} (h : s.scan.started = true) :
    exec (.scanTick raw now) s
      = .next ((evaluate now (snapshot raw now s)).setResult .nothing) := by
  simp [exec, execScanTick, h, done, snapshot]

/-- The snapshot differs from the state before in the scanner and by the CHANGE events. -/
theorem snapshot_eq (raw : List Byte) (now : Word) (s : State) :
    snapshot raw now s = { s with
      scan   := (snapshot raw now s).scan
      events := s.events ++ changeEvents raw s } := rfl

theorem snapshot_scan (raw : List Byte) (now : Word) (s : State) :
    (snapshot raw now s).scan = { s.scan with
      st          := (List.range s.cfg.nin).map fun i => (debounceAt raw s i).1
      cnt         := (List.range s.cfg.nin).map fun i => (debounceAt raw s i).2.1
      systemReady := s.scan.systemReady || decide (s.cfg.readyMs ≤ elapsed now s.scan.tStart) } := rfl

/-- The flags after the five rules. -/
def flagsAfter (now : Word) (s : State) : ActiveFlags :=
  ⟨(ruleOne now s).1, ruleTwo now s, s.safety.faultLatched || ruleThreeActsAfter now s, railBad s,
    !s.thermal.bypass && s.thermal.fault⟩

/-- The queue rule 4 finds. -/
def queueAtRuleFour (now : Word) (s : State) : List LogRequest :=
  if ruleThreeActsAfter now s then queued s.cfg .latch s.logq else s.logq

/-- The events of the five rules, in order. -/
def ruleEvents (now : Word) (s : State) : List Event :=
  edgeEvents .doorRelay s.active.doorRelay (flagsAfter now s).doorRelay
    ++ edgeEvents .contacts s.active.contacts (flagsAfter now s).contacts
    ++ (if ruleThreeActsAfter now s then .latchSeq .fault :: dropped s.cfg s.logq else [])
    ++ edgeEvents .latchError s.active.latchError (flagsAfter now s).latchError
    ++ (if ruleFourActs s then dropped s.cfg (queueAtRuleFour now s) else [])
    ++ edgeEvents .powerGood s.active.powerGood (flagsAfter now s).powerGood
    ++ edgeEvents .temperature s.active.temperature (flagsAfter now s).temperature

/-- The five rules on `s`: every field of the state they leave. The rules leave the scanner alone, so every predicate
of the snapshot is that of `s`. -/
theorem runRules_eq (now : Word) (s : State) :
    runRules now s = { s with
      active := flagsAfter now s
      rules  := { (ruleOne now s).2 with
        r2SettleRunning := ruleTwoWatches s
        r2SettleT0      := if ruleTwoWatches s then ruleTwoStart now s else s.rules.r2SettleT0
        r2Last          := ruleTwo now s
        r4Last          := railBad s }
      safety := ⟨forceAfterRuleTwo now s || ruleFourActs s, s.safety.faultLatched || ruleThreeActsAfter now s,
                  s.safety.laserLatchedOff || ruleThreeActsAfter now s || ruleFourActs s⟩
      latchQ := if ruleThreeActsAfter now s then List.replicate s.cfg.nLatch false else s.latchQ
      logq   := if ruleFourActs s then queued s.cfg .power (queueAtRuleFour now s) else queueAtRuleFour now s
      events := s.events ++ ruleEvents now s } := by
  obtain ⟨f1, f2, f3, f4⟩ := ruleOne_frame now s
  have e1 : runRule now .doorRelay s = { s with
      rules  := (ruleOne now s).2
      active := s.active.set .doorRelay (ruleOne now s).1
      events := s.events ++ edgeEvents .doorRelay s.active.doorRelay (ruleOne now s).1 } := by
    simp only [runRule, evalRule, evalDoorRelay_eq, reportEdge_eq]; rfl
  unfold runRules
  rw [e1]
  generalize hr1 : (ruleOne now s).2 = r1 at *
  generalize hb1 : (ruleOne now s).1 = b1 at *
  have e2 : ∀ ev, runRule now .contacts { s with rules := r1, active := s.active.set .doorRelay b1, events := ev }
      = { s with
        rules  := { r1 with
          r2SettleRunning := ruleTwoWatches s
          r2SettleT0      := if ruleTwoWatches s then ruleTwoStart now s else s.rules.r2SettleT0
          r2Last          := ruleTwo now s }
        active := (s.active.set .doorRelay b1).set .contacts (ruleTwo now s)
        safety := { s.safety with forceError := forceAfterRuleTwo now s }
        events := ev ++ edgeEvents .contacts s.active.contacts (ruleTwo now s) } := by
    intro ev
    have h1 : ∀ x y, ruleTwoWatches { s with rules := r1, active := x, events := y } = ruleTwoWatches s := fun _ _ => rfl
    have h2 : ∀ x y, ruleTwoStart now { s with rules := r1, active := x, events := y } = ruleTwoStart now s := by
      intro x y; simp only [ruleTwoStart, f1, f2]
    have h3 : ∀ x y, ruleTwo now { s with rules := r1, active := x, events := y } = ruleTwo now s := by
      intro x y; simp only [ruleTwo, h1, h2]; rfl
    simp only [runRule, evalRule, evalContacts_eq, reportEdge_eq, h1, h2, h3, f2, f3, forceAfterRuleTwo]
    rfl
  rw [e2]
  have e3 : ∀ r a ev, runRule now .latchError { s with
        rules := r, active := a, safety := { s.safety with forceError := forceAfterRuleTwo now s }, events := ev }
      = { s with
        rules  := r
        active := a.set .latchError (s.safety.faultLatched || ruleThreeActsAfter now s)
        safety := ⟨forceAfterRuleTwo now s, s.safety.faultLatched || ruleThreeActsAfter now s,
                    s.safety.laserLatchedOff || ruleThreeActsAfter now s⟩
        latchQ := if ruleThreeActsAfter now s then List.replicate s.cfg.nLatch false else s.latchQ
        logq   := queueAtRuleFour now s
        events := ev ++ (if ruleThreeActsAfter now s then .latchSeq .fault :: dropped s.cfg s.logq else [])
          ++ edgeEvents .latchError a.latchError (s.safety.faultLatched || ruleThreeActsAfter now s) } := by
    intro r a ev
    simp only [runRule, evalRule, evalLatchError_eq, reportEdge_eq]
    rfl
  rw [e3]
  have e4 : ∀ (r : RuleState) a q l m ev, r.r4Last = s.rules.r4Last →
      runRule now .powerGood { s with rules := r, active := a, safety := m, latchQ := l, logq := q, events := ev }
      = { s with
        rules  := { r with r4Last := railBad s }
        active := a.set .powerGood (railBad s)
        safety := ⟨m.forceError || ruleFourActs s, m.faultLatched, m.laserLatchedOff || ruleFourActs s⟩
        latchQ := l
        logq   := if ruleFourActs s then queued s.cfg .power q else q
        events := ev ++ (if ruleFourActs s then dropped s.cfg q else [])
          ++ edgeEvents .powerGood a.powerGood (railBad s) } := by
    intro r a q l m ev h
    have h1 : ∀ x1 x2 x3 x4 x5, ruleFourActs
        { s with rules := r, active := x1, safety := x2, latchQ := x3, logq := x4, events := x5 } = ruleFourActs s := by
      intro x1 x2 x3 x4 x5; simp only [ruleFourActs, h]; rfl
    simp only [runRule, evalRule, evalPowerGood_eq, reportEdge_eq, h1]
    rfl
  rw [e4 _ _ _ _ _ _ (by exact f4)]
  simp only [runRule, evalRule, evalTemperature, reportEdge_eq, ruleEvents, flagsAfter, hb1, ActiveFlags.set,
    ActiveFlags.get, List.append_assoc]

theorem snapshot_ready {raw : List Byte} {now : Word} {s : State} :
    (snapshot raw now s).scan.systemReady = true
      ↔ s.scan.systemReady = true ∨ s.cfg.readyMs ≤ elapsed now s.scan.tStart := by
  simp [snapshot_scan]

/-- An evaluated tick: the five rules on the snapshot. -/
theorem execScanTick_ready {raw : List Byte} {now : Word} {s : State} (h : s.scan.started = true)
    (hr : s.scan.systemReady = true ∨ s.cfg.readyMs ≤ elapsed now s.scan.tStart) :
    exec (.scanTick raw now) s = .next ((runRules now (snapshot raw now s)).setResult .nothing) := by
  rw [execScanTick_eq h, evaluate, if_pos (snapshot_ready.2 hr)]

/-- A tick before the block is ready: nothing but the snapshot. -/
theorem execScanTick_notReady {raw : List Byte} {now : Word} {s : State} (h : s.scan.started = true)
    (hr : ¬(s.scan.systemReady = true ∨ s.cfg.readyMs ≤ elapsed now s.scan.tStart)) :
    exec (.scanTick raw now) s = .next ((snapshot raw now s).setResult .nothing) := by
  rw [execScanTick_eq h, evaluate, if_neg fun hc => hr (snapshot_ready.1 hc)]

/-- A tick is evaluated or suppressed. -/
theorem execScanTick_cases (raw : List Byte) (now : Word) {s : State} (h : s.scan.started = true) :
    ∃ t, exec (.scanTick raw now) s = .next t ∧ t.scan = (snapshot raw now s).scan ∧ t.cfg = s.cfg
      ∧ (t.scan.systemReady = true ∧ t = (runRules now (snapshot raw now s)).setResult .nothing
        ∨ t.scan.systemReady = false ∧ t = (snapshot raw now s).setResult .nothing) := by
  by_cases hr : s.scan.systemReady = true ∨ s.cfg.readyMs ≤ elapsed now s.scan.tStart
  · refine ⟨_, execScanTick_ready h hr, ?_⟩
    rw [runRules_eq]
    exact ⟨rfl, rfl, .inl ⟨snapshot_ready.2 hr, rfl⟩⟩
  · refine ⟨_, execScanTick_notReady h hr, rfl, rfl, .inr ⟨?_, rfl⟩⟩
    exact Bool.eq_false_iff.2 fun hc => hr (snapshot_ready.1 hc)

/-- No event of the rules is a CHANGE event. -/
theorem ruleEvents_notChange (now : Word) (s : State) : ∀ e ∈ ruleEvents now s, e.isChange = false := by
  intro e he
  simp only [ruleEvents, edgeEvents, dropped, List.mem_append] at he
  rcases he with (((((he | he) | he) | he) | he) | he) | he
  all_goals
    (repeat' split at he) <;> simp at he <;> (try rcases he with rfl | rfl) <;> rfl

/-- What a sample does to one input of the snapshot (rules R172, R173). -/
theorem snapshot_st (raw : List Byte) (now : Word) {s : State} {i : Nat} (hi : i < s.cfg.nin) :
    (snapshot raw now s).st i = (debounceAt raw s i).1 := by
  simp [State.st, snapshot_scan, hi, List.getD_eq_getElem?_getD]

theorem snapshot_cnt (raw : List Byte) (now : Word) {s : State} {i : Nat} (hi : i < s.cfg.nin) :
    (snapshot raw now s).cnt i = (debounceAt raw s i).2.1 := by
  simp [State.cnt, snapshot_scan, hi, List.getD_eq_getElem?_getD]

/-- A tick has one CHANGE event for input `i`, or none. -/
theorem countP_changeEvents (raw : List Byte) (s : State) (i : Nat) (hi : i < s.cfg.nin) :
    (changeEvents raw s).countP (Event.isChangeOf i) = if (debounceAt raw s i).2.2 then 1 else 0 := by
  unfold changeEvents
  generalize s.cfg.nin = n at hi
  induction n with
  | zero => omega
  | succ n ih =>
    rw [List.range_succ, List.filterMap_append, List.countP_append]
    by_cases h : i = n
    · subst h
      have : List.countP (Event.isChangeOf i) (List.filterMap (fun i => if (debounceAt raw s i).2.2 = true then some (Event.change i (rawBit raw i)) else none) (List.range i)) = 0 := by
        rw [List.countP_eq_zero]
        intro e he
        simp only [List.mem_filterMap, List.mem_range] at he
        obtain ⟨j, hj, he⟩ := he
        split at he <;> simp at he
        subst he; simp [Event.isChangeOf]; omega
      rw [this]
      simp only [List.filterMap_cons, List.filterMap_nil]
      split <;> simp_all [Event.isChangeOf]
      · rename_i h; obtain ⟨-, rfl⟩ := h; simp
    · rw [ih (by omega)]
      simp only [List.filterMap_cons, List.filterMap_nil]
      have hne : ¬n = i := fun hc => h hc.symm
      by_cases hd : (debounceAt raw s n).2.2 = true <;> simp [hd, Event.isChangeOf, hne]

/-- What a tick does to one input, and to the number of its CHANGE events (rules R172, R173). -/
theorem execScanTick_input (raw : List Byte) (now : Word) (s : State) (i : Nat) (h : s.scan.started = true) (hi : i < s.cfg.nin) :
    ∃ t, exec (.scanTick raw now) s = .next t ∧ t.scan.started = true ∧ t.cfg = s.cfg
      ∧ t.st i = (debounceOne s.cfg.debounceN (rawBit raw i) (s.st i) (s.cnt i)).1
      ∧ t.cnt i = (debounceOne s.cfg.debounceN (rawBit raw i) (s.st i) (s.cnt i)).2.1
      ∧ t.events.countP (Event.isChangeOf i) = s.events.countP (Event.isChangeOf i)
          + if (debounceOne s.cfg.debounceN (rawBit raw i) (s.st i) (s.cnt i)).2.2 then 1 else 0 := by
  obtain ⟨t, ht, hs, hc, hcase⟩ := execScanTick_cases raw now h
  refine ⟨t, ht, by rw [hs]; exact h, hc, ?_, ?_, ?_⟩
  · rw [← debounceAt, ← snapshot_st raw now hi]; simp [State.st, hs]
  · rw [← debounceAt, ← snapshot_cnt raw now hi]; simp [State.cnt, hs]
  · rw [← debounceAt, ← countP_changeEvents _ _ _ hi]
    rcases hcase with ⟨hr, rfl⟩ | ⟨hr, rfl⟩
    · rw [runRules_eq]
      have : List.countP (Event.isChangeOf i) (ruleEvents now (snapshot raw now s)) = 0 := by
        rw [List.countP_eq_zero]
        intro e he
        have := ruleEvents_notChange _ _ e he
        cases e <;> simp_all [Event.isChange, Event.isChangeOf]
      show List.countP _ ((s.events ++ changeEvents raw s) ++ ruleEvents now (snapshot raw now s)) = _
      rw [List.countP_append, this, List.countP_append]; rfl
    · show List.countP _ (s.events ++ changeEvents raw s) = _
      rw [List.countP_append]

end Sys2Proof.Machine
end

