-- ==== Sys2Proof/Laws/Actions.lean ====
section
/-! SUPPORT. What raising each condition does (rules R386 to R395, R405), the clearing path (R257, R408), one sample of
the thermal guard (R232 to R237), one transmission (R318), and the volatile reset (R64), once. -/

namespace Sys2Proof.Machine

/-! Conditions. -/

/-- The entry of a latch error: latches to fault, laser off, fault latched, one log request (rules R388, R206). -/
theorem raise_latchError (s : State) :
    raiseCondition .latchError s = { s with
      latchQ := List.replicate s.cfg.nLatch false
      safety := ⟨s.safety.forceError, true, true⟩
      logq   := queued s.cfg .latch s.logq
      events := s.events ++ [.latchSeq .fault] ++ dropped s.cfg s.logq } := by
  simp only [raiseCondition, logRequest_eq]
  rfl

/-- The entry of a power fault: force flag, laser off, one log request (rules R389, R208). -/
theorem raise_powerFail (s : State) :
    raiseCondition .powerFail s = { s with
      safety := ⟨true, s.safety.faultLatched, true⟩
      logq   := queued s.cfg .power s.logq
      events := s.events ++ dropped s.cfg s.logq } := by
  simp only [raiseCondition, logRequest_eq]
  rfl

/-- The entry of a thermal trip (rules R390, R234). -/
theorem raise_overUnderTemp (temp : Half) (s : State) :
    raiseCondition (.overUnderTemp temp) s = { s with
      thermal := { s.thermal with fault := true, tripTemp := some temp }
      safety  := ⟨true, s.safety.faultLatched, true⟩
      logq    := queued s.cfg .thermal s.logq
      events  := s.events ++ dropped s.cfg s.logq ++ [.thermalTrip temp] } := by
  simp only [raiseCondition, logRequest_eq]
  rfl

/-- The clearing path: the three flags 0, the latches re-armed (rules R257, R253). -/
theorem clearSafetyFaults_eq (s : State) :
    clearSafetyFaults s = { s with
      safety := ⟨false, false, false⟩
      latchQ := List.replicate s.cfg.nLatch true
      events := s.events ++ [.latchSeq .rearm] } := rfl

/-! The thermal guard. -/

/-- All that one hysteresis step can do: nothing, clear, or trip (rules R233 to R235). -/
theorem hysteresis_cases (temp : Half) (fl : Byte) (s : State) :
    (hysteresis temp fl s = s
      ∧ (s.thermal.fault = true → clearCond s.cfg temp fl = false)
      ∧ (s.thermal.fault = false → tripCond s.cfg temp fl = false))
    ∨ (s.thermal.fault = true ∧ clearCond s.cfg temp fl = true
      ∧ hysteresis temp fl s
          = { s with thermal := { s.thermal with fault := false }, events := s.events ++ [.thermalClear] })
    ∨ (s.thermal.fault = false ∧ tripCond s.cfg temp fl = true
      ∧ hysteresis temp fl s = raiseCondition (.overUnderTemp temp) s) := by
  unfold hysteresis
  cases hf : s.thermal.fault
  · cases ht : tripCond s.cfg temp fl <;> simp
  · cases hc : clearCond s.cfg temp fl <;> simp [State.setThermal, State.emit, State.setEvents]

/-! A transmission. -/

/-- All that a transmission does (rules R318, R321, R392). -/
theorem sendFrame_eq (cmd var : Byte) (value : Option Half) (s : State) :
    sendFrame cmd var value s = { s with
      draws  := s.draws.afterTx
      events := s.events ++ .tx (frameBytes s.cfg cmd var value) s.draws.txAnswer ::
        (if s.draws.txAnswer = .timeout then [.ioError .txTimeout] else [])
      result := .sent s.draws.txAnswer } := by
  unfold sendFrame drawTx
  cases s.draws.txAnswer <;>
    simp [raiseCondition, State.emit, State.setEvents, State.setDraws, State.setResult]

/-! Reset. -/

/-- A volatile reset gives the table of rule R64. -/
theorem volatileReset_table (s : State) : resetTable (volatileReset s) := by
  simp [resetTable, volatileReset, State.resetWith, linkReset, Link.reset, Config.nLink]

end Sys2Proof.Machine
end

