-- ==== Sys2Proof/Laws/Memory.lean ====
section
/-! SUPPORT. What the memory operations do: a read after a write, and the canonical form, which every operation
keeps. -/

namespace Sys2Proof.Machine

theorem Memory.wf_nil : Memory.wf [] := by simp [Memory.wf]

theorem Memory.wf_cons {a : Nat} {b : Byte} {m : Memory} :
    Memory.wf ((a, b) :: m) ↔ (∀ p ∈ m, a < p.1) ∧ b ≠ Memory.unlisted ∧ Memory.wf m := by
  simp only [Memory.wf, List.pairwise_cons, List.mem_cons, forall_eq_or_imp]
  tauto

/-- An address no entry lists reads as the unlisted byte. -/
theorem Memory.read_of_not_listed {m : Memory} {x : Nat} (h : ∀ p ∈ m, p.1 ≠ x) : m.read x = Memory.unlisted := by
  induction m with
  | nil => rfl
  | cons p m ih =>
    obtain ⟨a, b⟩ := p
    have ha : a ≠ x := h (a, b) (by simp)
    simp only [Memory.read, if_neg ha]
    exact ih fun q hq => h q (by simp [hq])

theorem Memory.read_write {m : Memory} (hm : m.wf) (x y : Nat) (v : Byte) :
    (m.write x v).read y = if y = x then v else m.read y := by
  induction m with
  | nil =>
    by_cases hv : v = Memory.unlisted
    · simp [Memory.write, hv, Memory.read]
    · simp only [Memory.write, if_neg hv, Memory.read]
      split <;> split <;> simp_all
  | cons p m ih =>
    obtain ⟨a, b⟩ := p
    obtain ⟨ha, hb, hw⟩ := Memory.wf_cons.1 hm
    have ih := ih hw
    have hx : x ≤ a → Memory.read m x = Memory.unlisted := fun h =>
      Memory.read_of_not_listed fun q hq => by have := ha q hq; omega
    simp only [Memory.write]
    split
    · rename_i hlt
      split
      · rename_i hv
        by_cases hy : y = x
        · subst hy
          have : a ≠ y := by omega
          simp [Memory.read, this, hx (by omega), hv]
        · simp [hy]
      · by_cases hy : y = x
        · subst hy; simp [Memory.read]
        · have : x ≠ y := fun h => hy h.symm
          simp [Memory.read, hy, this]
    · split
      · rename_i hxa
        subst hxa
        split
        · rename_i hv
          by_cases hy : y = x
          · subst hy; simp [hx (le_refl _), hv]
          · have : x ≠ y := fun h => hy h.symm
            simp [Memory.read, hy, this]
        · by_cases hy : y = x
          · subst hy; simp [Memory.read]
          · have : x ≠ y := fun h => hy h.symm
            simp [Memory.read, hy, this]
      · rename_i h1 h2
        simp only [Memory.read, ih]
        by_cases hay : a = y
        · have : y ≠ x := by omega
          simp [hay, this]
        · simp [hay]

theorem Memory.read_write_same {m : Memory} (hm : m.wf) (x : Nat) (v : Byte) : (m.write x v).read x = v := by
  simp [Memory.read_write hm]

theorem Memory.read_write_other {m : Memory} (hm : m.wf) {x y : Nat} (v : Byte) (h : y ≠ x) :
    (m.write x v).read y = m.read y := by
  simp [Memory.read_write hm, h]

theorem Memory.mem_write {m : Memory} {x : Nat} {v : Byte} {p : Host.Cell} (h : p ∈ m.write x v) :
    p ∈ m ∨ p = (x, v) := by
  induction m with
  | nil =>
    simp only [Memory.write] at h
    split at h <;> simp_all
  | cons q m ih =>
    obtain ⟨a, b⟩ := q
    simp only [Memory.write] at h
    split at h
    · split at h
      · exact .inl h
      · rcases List.mem_cons.1 h with h | h
        · exact .inr h
        · exact .inl h
    · split at h
      · split at h
        · exact .inl (List.mem_cons_of_mem _ h)
        · rcases List.mem_cons.1 h with h | h
          · exact .inr h
          · exact .inl (List.mem_cons_of_mem _ h)
      · rcases List.mem_cons.1 h with h | h
        · exact .inl (by simp [h])
        · rcases ih h with h | h
          · exact .inl (List.mem_cons_of_mem _ h)
          · exact .inr h

theorem Memory.wf_write {m : Memory} (hm : m.wf) (x : Nat) (v : Byte) : (m.write x v).wf := by
  induction m with
  | nil =>
    simp only [Memory.write]
    split
    · exact Memory.wf_nil
    · rename_i hv
      exact Memory.wf_cons.2 ⟨by simp, hv, Memory.wf_nil⟩
  | cons p m ih =>
    obtain ⟨a, b⟩ := p
    obtain ⟨ha, hb, hw⟩ := Memory.wf_cons.1 hm
    simp only [Memory.write]
    split
    · rename_i hlt
      split
      · exact hm
      · rename_i hv
        refine Memory.wf_cons.2 ⟨?_, hv, hm⟩
        intro q hq
        rcases List.mem_cons.1 hq with rfl | hq
        · exact hlt
        · have := ha q hq; omega
    · split
      · rename_i hxa
        subst hxa
        split
        · exact hw
        · rename_i hv
          exact Memory.wf_cons.2 ⟨ha, hv, hw⟩
      · rename_i h1 h2
        refine Memory.wf_cons.2 ⟨?_, hb, ih hw⟩
        intro q hq
        rcases Memory.mem_write hq with hq | rfl
        · exact ha q hq
        · show a < x; omega

theorem Memory.wf_writeN {m : Memory} (hm : m.wf) (addr : Nat) (bs : List Byte) : (m.writeN addr bs).wf := by
  induction bs generalizing m addr with
  | nil => exact hm
  | cons b bs ih => exact ih (Memory.wf_write hm _ _) _

/-- What a byte reads as after a byte string has been stored. -/
theorem Memory.read_writeN {m : Memory} (hm : m.wf) (addr : Nat) (bs : List Byte) (y : Nat) :
    (m.writeN addr bs).read y =
      if addr ≤ y ∧ y < addr + bs.length then bs.getD (y - addr) 0 else m.read y := by
  induction bs generalizing m addr with
  | nil =>
    have : ¬(addr ≤ y ∧ y < addr) := by omega
    simp [Memory.writeN, this]
  | cons b bs ih =>
    simp only [Memory.writeN, ih (Memory.wf_write hm _ _), Memory.read_write hm, List.length_cons]
    by_cases h1 : y = addr
    · subst h1
      have h2 : ¬(y + 1 ≤ y ∧ y < y + 1 + bs.length) := by omega
      have h3 : y ≤ y ∧ y < y + (bs.length + 1) := by omega
      simp [h2]
    · by_cases h2 : addr + 1 ≤ y ∧ y < addr + 1 + bs.length
      · have h3 : addr ≤ y ∧ y < addr + (bs.length + 1) := by omega
        obtain ⟨k, rfl⟩ : ∃ k, y = addr + 1 + k := ⟨y - (addr + 1), by omega⟩
        have h4 : addr + 1 + k - addr = k + 1 := by omega
        have h5 : addr + 1 + k - (addr + 1) = k := by omega
        rw [if_pos h2, if_pos h3, h4, h5]
        simp
      · have h3 : ¬(addr ≤ y ∧ y < addr + (bs.length + 1)) := by omega
        rw [if_neg h2, if_neg h1, if_neg h3]

theorem Memory.wf_filter {m : Memory} (hm : m.wf) (f : Host.Cell → Bool) : Memory.wf (m.filter f) :=
  ⟨hm.1.filter f, fun p hp => hm.2 p (List.mem_filter.1 hp).1⟩

theorem Memory.read_filter {m : Memory} (hm : m.wf) (f : Nat → Bool) (y : Nat) :
    Memory.read (m.filter fun p => f p.1) y = if f y then m.read y else Memory.unlisted := by
  induction m with
  | nil => simp [Memory.read]
  | cons p m ih =>
    obtain ⟨a, b⟩ := p
    obtain ⟨ha, hb, hw⟩ := Memory.wf_cons.1 hm
    have ih := ih hw
    by_cases hf : f a
    · simp only [List.filter_cons, hf, if_true, Memory.read, ih]
      by_cases hay : a = y
      · subst hay; simp [hf]
      · simp [hay]
    · simp only [List.filter_cons, hf, Memory.read]
      by_cases hay : a = y
      · subst hay
        simp only [hf]
        exact Memory.read_of_not_listed fun q hq => by
          have := ha q (List.mem_filter.1 hq).1; omega
      · simpa [hay] using ih

theorem Memory.wf_fill {m : Memory} (hm : m.wf) (addr n : Nat) (v : Byte) : (m.fill addr n v).wf := by
  unfold Memory.fill
  split
  · exact Memory.wf_filter hm _
  · exact Memory.wf_writeN hm _ _

theorem Memory.read_fill {m : Memory} (hm : m.wf) (addr n : Nat) (v : Byte) (y : Nat) :
    (m.fill addr n v).read y = if addr ≤ y ∧ y < addr + n then v else m.read y := by
  unfold Memory.fill
  split
  · rename_i hv
    rw [Memory.read_filter hm (fun a => decide (a < addr) || decide (addr + n ≤ a))]
    by_cases h : addr ≤ y ∧ y < addr + n
    · have : (decide (y < addr) || decide (addr + n ≤ y)) = false := by simp; omega
      rw [if_pos h, this]; simp [hv]
    · have : (decide (y < addr) || decide (addr + n ≤ y)) = true := by simp; omega
      rw [if_neg h, this]; simp
  · rw [Memory.read_writeN hm]
    simp only [List.length_replicate]
    by_cases h : addr ≤ y ∧ y < addr + n
    · have : y - addr < n := by omega
      simp [h, List.getD_eq_getElem?_getD, this]
    · simp [h]

@[simp] theorem Memory.length_readN (m : Memory) (addr n : Nat) : (m.readN addr n).length = n := by
  simp [Memory.readN]

theorem Memory.getD_readN (m : Memory) (addr n i : Nat) (h : i < n) :
    (m.readN addr n).getD i 0 = m.read (addr + i) := by
  simp [Memory.readN, List.getD_eq_getElem?_getD, h]

end Sys2Proof.Machine
end

