-- ==== Sys2Proof/Laws/Flash.lean ====
section
/-! SUPPORT. What each NVM transaction and each walk over the slots does, once (rules R83 to R86, R335 to R337, R352,
R355, R358), and what the three steps of an FL_APPEND leave. -/

namespace Sys2Proof.Machine

/-! Draws. -/

theorem Draws.afterNvms_succ (n : Nat) (d : Draws) : d.afterNvms (n + 1) = (d.afterNvms n).afterNvm := by
  induction n generalizing d with
  | zero => rfl
  | succ n ih => exact ih d.afterNvm

theorem Draws.afterNvms_add (m n : Nat) (d : Draws) : d.afterNvms (m + n) = (d.afterNvms m).afterNvms n := by
  induction m generalizing d with
  | zero => simp [Draws.afterNvms]
  | succ m ih => rw [Nat.succ_add]; exact ih d.afterNvm

theorem nvmAllOk_succ {n : Nat} {d : Draws} : nvmAllOk (n + 1) d ↔ d.nvmAnswer = .ok ∧ nvmAllOk n d.afterNvm := by
  constructor
  · intro h
    exact ⟨h 0 (Nat.succ_pos n), fun k hk => h (k + 1) (Nat.succ_lt_succ hk)⟩
  · rintro ⟨h, ht⟩ k hk
    cases k with
    | zero => exact h
    | succ k => exact ht k (Nat.lt_of_succ_lt_succ hk)

theorem nvmAllOk_mono {m n : Nat} {d : Draws} (h : nvmAllOk n d) (hm : m ≤ n) : nvmAllOk m d :=
  fun k hk => h k (Nat.lt_of_lt_of_le hk hm)

theorem nvmAllOk_drop {m n : Nat} {d : Draws} (h : nvmAllOk (m + n) d) : nvmAllOk n (d.afterNvms m) := by
  intro k hk
  rw [← Draws.afterNvms_add]
  exact h (m + k) (by omega)

@[simp] theorem Draws.afterNvm_cut (d : Draws) : d.afterNvm.cut = d.cut := by
  unfold Draws.afterNvm; split <;> rfl

@[simp] theorem Draws.afterNvms_cut (n : Nat) (d : Draws) : (d.afterNvms n).cut = d.cut := by
  induction n generalizing d with
  | zero => rfl
  | succ n ih => exact (ih _).trans d.afterNvm_cut

/-! The three transactions. -/

theorem nvmRead_ok {addr n : Nat} {s : State} (h : s.draws.nvmAnswer = .ok) :
    nvmRead addr n s = (some (s.nvm.readN addr n),
      { s with draws := s.draws.afterNvm, nvmOps := s.nvmOps ++ [.read addr n .ok] }) := by
  simp [nvmRead, drawNvm, h, State.setDraws, State.logNvmOp, State.setNvmOps]

theorem nvmRead_fail {addr n : Nat} {s : State} (h : s.draws.nvmAnswer = .fail) :
    nvmRead addr n s = (none,
      { s with draws := s.draws.afterNvm, nvmOps := s.nvmOps ++ [.read addr n .fail] }) := by
  simp [nvmRead, drawNvm, h, State.setDraws, State.logNvmOp, State.setNvmOps]

theorem nvmProgram_ok {addr : Nat} {bs : List Byte} {s : State} (h : s.draws.nvmAnswer = .ok) :
    nvmProgram addr bs s = (.ok, { s with
      nvm    := s.nvm.writeN addr (programmed s.nvm addr bs)
      draws  := s.draws.afterNvm
      nvmOps := s.nvmOps ++ [.program addr bs .ok] }) := by
  simp [nvmProgram, drawNvm, h, State.setDraws, State.setNvm, State.logNvmOp, State.setNvmOps]

theorem nvmProgram_fail {addr : Nat} {bs : List Byte} {s : State} (h : s.draws.nvmAnswer = .fail) :
    ∃ n d, nvmProgram addr bs s = (.fail, { s with
      nvm    := s.nvm.writeN addr (halfProgrammed s.nvm addr bs n)
      draws  := d
      nvmOps := s.nvmOps ++ [.program addr bs .fail] }) := by
  refine ⟨s.draws.afterNvm.count, { s.draws.afterNvm with count := s.draws.afterNvm.count + 1 }, ?_⟩
  simp [nvmProgram, drawNvm, h, State.setDraws, State.setNvm, State.countDraw, State.logNvmOp, State.setNvmOps]

theorem nvmErase_ok {n : Nat} {s : State} (h : s.draws.nvmAnswer = .ok) :
    nvmErase n s = (.ok, { s with
      nvm    := s.nvm.fill (sectorAddr s.cfg n) s.cfg.sectorSize s.cfg.erased
      draws  := s.draws.afterNvm
      nvmOps := s.nvmOps ++ [.erase n .ok] }) := by
  simp [nvmErase, drawNvm, h, State.setDraws, State.setNvm, State.logNvmOp, State.setNvmOps]

theorem nvmErase_fail {n : Nat} {s : State} (h : s.draws.nvmAnswer = .fail) :
    ∃ bs d, bs.length = s.cfg.sectorSize ∧ nvmErase n s = (.fail, { s with
      nvm    := s.nvm.writeN (sectorAddr s.cfg n) bs
      draws  := d
      nvmOps := s.nvmOps ++ [.erase n .fail] }) := by
  refine ⟨(List.range s.cfg.sectorSize).map (Config.freeNvmByte s.draws.afterNvm.count),
    { s.draws.afterNvm with count := s.draws.afterNvm.count + 1 }, by simp, ?_⟩
  simp [nvmErase, drawNvm, h, State.setDraws, State.setNvm, State.countDraw, State.logNvmOp, State.setNvmOps]

theorem Status.ok_or_fail (st : Status) : st = .ok ∨ st = .fail := by cases st <;> simp

@[simp] theorem length_programmed (m : Memory) (addr : Nat) (bs : List Byte) :
    (programmed m addr bs).length = bs.length := by simp [programmed]

@[simp] theorem length_halfProgrammed (m : Memory) (addr : Nat) (bs : List Byte) (n : Nat) :
    (halfProgrammed m addr bs n).length = bs.length := by simp [halfProgrammed]

/-- Every byte after a program that returned OK (rule R84). -/
theorem read_programmed {m : Memory} (hm : m.wf) (addr : Nat) (bs : List Byte) (a : Nat) :
    (m.writeN addr (programmed m addr bs)).read a =
      if addr ≤ a ∧ a < addr + bs.length then m.read a &&& bs.getD (a - addr) 0 else m.read a := by
  rw [Memory.read_writeN hm, length_programmed]
  split
  · rename_i h
    have h2 : a - addr < bs.length := by omega
    simp [programmed, List.getD_eq_getElem?_getD, h2, show addr + (a - addr) = a by omega]
  · rfl

/-- Every byte after a program that returned FAIL (rule R84). -/
theorem read_halfProgrammed {m : Memory} (hm : m.wf) (addr : Nat) (bs : List Byte) (n a : Nat) :
    (addr ≤ a ∧ a < addr + bs.length →
      halfDone (m.read a) (bs.getD (a - addr) 0) ((m.writeN addr (halfProgrammed m addr bs n)).read a))
    ∧ (¬(addr ≤ a ∧ a < addr + bs.length) →
      (m.writeN addr (halfProgrammed m addr bs n)).read a = m.read a) := by
  rw [Memory.read_writeN hm, length_halfProgrammed]
  refine ⟨?_, ?_⟩
  · intro h
    have h2 : a - addr < bs.length := by omega
    rw [if_pos h]
    simp only [halfProgrammed, List.getD_eq_getElem?_getD, h2, show addr + (a - addr) = a by omega, List.getElem?_map,
      List.getElem?_range, Option.map_some, Option.getD_some, List.getElem?_eq_getElem, halfDone]
    intro i hi
    simp only [BitVec.getLsbD_and, BitVec.getLsbD_or]
    cases (Config.freeNvmByte n (a - addr)).getLsbD i <;> simp
  · intro h
    rw [if_neg h]

/-! The slots. -/

/-- An admitted configuration tells a committed slot from an erased one (rule R90). -/
theorem Config.wf_commit {c : Config} (h : c.wf = true) : c.commitVal ≠ c.erased := by
  unfold Config.wf at h; simp only [Bool.and_eq_true] at h; simpa using h.1.1.2


theorem slot_class_read {s : State} {k : Nat} :
    (s.nvm.readN (commitAddr s.cfg k) 1).getD 0 0 = s.nvm.read (commitAddr s.cfg k) := by
  simp [Memory.readN]

/-- The commit byte of a whole record is the byte at the slot's commit address. -/
theorem unpackCommit_readN (s : State) (k : Nat) :
    unpackCommit s.cfg (s.nvm.readN (slotAddr s.cfg k) s.cfg.recordSize) = s.nvm.read (commitAddr s.cfg k) := by
  rw [unpackCommit, Memory.getD_readN _ _ _ _ (by simp [bodyLen, Config.recordSize])]
  rfl

theorem slot_eq_empty {s : State} {k : Nat} : s.slot k = .empty ↔ s.nvm.read (commitAddr s.cfg k) = s.cfg.erased := by
  unfold State.slot slotClass
  split
  · simp_all
  · split <;> simp_all

theorem slot_eq_valid {s : State} {k : Nat} (h : s.cfg.commitVal ≠ s.cfg.erased) :
    s.slot k = .valid ↔ s.nvm.read (commitAddr s.cfg k) = s.cfg.commitVal := by
  unfold State.slot slotClass
  split
  · rename_i he; simp [he, h.symm]
  · split <;> simp_all

/-! The walks. Each only reads; how far it went is how many reads it made. -/

/-- What a walk may change: the transactions made, all of them reads, and the draws they used. -/
structure ReadsOnly (s t : State) (n : Nat) : Prop where
  state : t = { s with draws := s.draws.afterNvms n, nvmOps := t.nvmOps }
  ops   : ∃ ops, t.nvmOps = s.nvmOps ++ ops ∧ (∀ op ∈ ops, op.isRead = true) ∧ ops.length = n

theorem ReadsOnly.refl (s : State) : ReadsOnly s s 0 := ⟨rfl, [], by simp, by simp, rfl⟩

theorem ReadsOnly.read {s t : State} {n addr k : Nat} {st : Status}
    (h : ReadsOnly { s with draws := s.draws.afterNvm, nvmOps := s.nvmOps ++ [.read addr k st] } t n) :
    ReadsOnly s t (n + 1) := by
  obtain ⟨ops, h1, h2, h3⟩ := h.ops
  refine ⟨h.state, .read addr k st :: ops, by rw [h1]; simp, ?_, by simp [h3]⟩
  intro op hop
  rcases List.mem_cons.1 hop with rfl | hop
  · rfl
  · exact h2 op hop

theorem ReadsOnly.trans {s t u : State} {m n : Nat} (h : ReadsOnly s t m) (h' : ReadsOnly t u n) :
    ReadsOnly s u (m + n) := by
  obtain ⟨ops, h1, h2, h3⟩ := h.ops
  obtain ⟨ops', h1', h2', h3'⟩ := h'.ops
  refine ⟨?_, ops ++ ops', by rw [h1', h1]; simp, ?_, by simp [h3, h3']⟩
  · have e := h'.state
    rw [h.state] at e
    rw [Draws.afterNvms_add]
    exact e
  · intro op hop
    rcases List.mem_append.1 hop with hop | hop
    · exact h2 op hop
    · exact h2' op hop

theorem ReadsOnly.cfg {s t : State} {n : Nat} (h : ReadsOnly s t n) : t.cfg = s.cfg := by rw [h.state]
theorem ReadsOnly.nvm {s t : State} {n : Nat} (h : ReadsOnly s t n) : t.nvm = s.nvm := by rw [h.state]
theorem ReadsOnly.draws {s t : State} {n : Nat} (h : ReadsOnly s t n) : t.draws = s.draws.afterNvms n := by
  rw [h.state]

/-- Step 1 of FL_INIT over the slots `ks` (rules R335, R336). -/
theorem findEmpty_spec (ks : List Nat) (s : State) :
    ∃ n ≤ ks.length, ReadsOnly s (findEmpty ks s).2 n
      ∧ (nvmAllOk ks.length s.draws → (findEmpty ks s).1 ≠ none)
      ∧ match (findEmpty ks s).1 with
        | none => True
        | some none => ∀ k ∈ ks, s.slot k ≠ .empty
        | some (some k) => s.slot k = .empty ∧ ∃ a b, ks = a ++ k :: b ∧ ∀ j ∈ a, s.slot j ≠ .empty := by
  induction ks generalizing s with
  | nil => exact ⟨0, Nat.le_refl _, .refl s, by simp [findEmpty], by simp [findEmpty]⟩
  | cons k ks ih =>
    rcases s.draws.nvmAnswer.ok_or_fail with h | h
    · simp only [findEmpty, nvmRead_ok h, slot_class_read]
      split
      · rename_i he
        refine ⟨1, by simp, .read (.refl _), by simp, ?_⟩
        exact ⟨slot_eq_empty.2 he, [], ks, rfl, by simp⟩
      · rename_i he
        obtain ⟨n, hn, h1, h2, h3⟩ := ih
          { s with draws := s.draws.afterNvm, nvmOps := s.nvmOps ++ [.read (commitAddr s.cfg k) 1 .ok] }
        refine ⟨n + 1, by simpa using hn, .read h1, fun hall => h2 (nvmAllOk_succ.1 hall).2, ?_⟩
        revert h3
        have hk : s.slot k ≠ .empty := fun hc => he (slot_eq_empty.1 hc)
        split
        · exact fun _ => trivial
        · intro h3 j hj
          rcases List.mem_cons.1 hj with rfl | hj
          · exact hk
          · exact h3 j hj
        · rintro ⟨h3, a, b, rfl, h4⟩
          refine ⟨h3, k :: a, b, rfl, ?_⟩
          intro j hj
          rcases List.mem_cons.1 hj with rfl | hj
          · exact hk
          · exact h4 j hj
    · simp only [findEmpty, nvmRead_fail h]
      refine ⟨1, by simp, .read (.refl _), ?_, trivial⟩
      intro hall
      rw [(nvmAllOk_succ.1 hall).1] at h
      cases h

/-- The slots walked before slot `j`: `j` is as many back as that and one. -/
theorem slotsBefore_split {c : Config} {k n : Nat} {a b : List Nat} {j : Nat} (h : slotsBefore c k n = a ++ j :: b) :
    j = slotBack c k (a.length + 1) ∧ a.length + 1 ≤ n ∧ ∀ e, 1 ≤ e → e < a.length + 1 → slotBack c k e ∈ a := by
  have hl : (slotsBefore c k n).length = n := by simp [slotsBefore]
  have hlen : a.length + 1 + b.length = n := by rw [h] at hl; simp at hl; omega
  have hg : ∀ i, i < n → (slotsBefore c k n)[i]? = some (slotBack c k (i + 1)) := by
    intro i hi; simp [slotsBefore, hi]
  refine ⟨?_, by omega, ?_⟩
  · have := hg a.length (by omega)
    rw [h] at this; simpa using this
  · intro e h1 h2
    have := hg (e - 1) (by omega)
    rw [h, List.getElem?_append_left (by omega), show e - 1 + 1 = e by omega] at this
    exact List.mem_of_getElem? this

/-- Step 2 of FL_INIT over the slots `ks` (rules R335, R337). -/
theorem findNewest_spec (ks : List Nat) (s : State) (hc : s.cfg.commitVal ≠ s.cfg.erased) :
    ∃ n ≤ ks.length, ReadsOnly s (findNewest ks s).2 n
      ∧ (nvmAllOk ks.length s.draws → (findNewest ks s).1 ≠ none)
      ∧ match (findNewest ks s).1 with
        | none => True
        | some none => ∀ k ∈ ks, s.slot k ≠ .valid
        | some (some q) =>
          ∃ a k b, ks = a ++ k :: b ∧ s.slot k = .valid ∧ q = (s.record k).seq ∧ ∀ j ∈ a, s.slot j ≠ .valid := by
  induction ks generalizing s with
  | nil => exact ⟨0, Nat.le_refl _, .refl s, by simp [findNewest], by simp [findNewest]⟩
  | cons k ks ih =>
    rcases s.draws.nvmAnswer.ok_or_fail with h | h
    · simp only [findNewest, nvmRead_ok h, unpackCommit_readN]
      split
      · rename_i he
        refine ⟨1, by simp, .read (.refl _), by simp, ?_⟩
        exact ⟨[], k, ks, rfl, (slot_eq_valid hc).2 he, rfl, by simp⟩
      · rename_i he
        obtain ⟨n, hn, h1, h2, h3⟩ := ih { s with
          draws := s.draws.afterNvm, nvmOps := s.nvmOps ++ [.read (slotAddr s.cfg k) s.cfg.recordSize .ok] } hc
        refine ⟨n + 1, by simpa using hn, .read h1, fun hall => h2 (nvmAllOk_succ.1 hall).2, ?_⟩
        revert h3
        have hk : s.slot k ≠ .valid := fun hv => he ((slot_eq_valid hc).1 hv)
        split
        · exact fun _ => trivial
        · intro h3 j hj
          rcases List.mem_cons.1 hj with rfl | hj
          · exact hk
          · exact h3 j hj
        · rintro ⟨a, j, b, rfl, h3, h4, h5⟩
          refine ⟨k :: a, j, b, rfl, h3, h4, ?_⟩
          intro i hi
          rcases List.mem_cons.1 hi with rfl | hi
          · exact hk
          · exact h5 i hi
    · simp only [findNewest, nvmRead_fail h]
      refine ⟨1, by simp, .read (.refl _), ?_, trivial⟩
      intro hall
      rw [(nvmAllOk_succ.1 hall).1] at h
      cases h

/-- The walk of FL_READ_LAST_N over the slots `ks` (rules R352, R358). -/
theorem readBack_spec (ks : List Nat) (s : State) (hc : s.cfg.commitVal ≠ s.cfg.erased) :
    ∃ n u, n ≤ ks.length ∧ ReadsOnly s u n
      ∧ (readBack ks s).2 = (if (readBack ks s).1.1 = .ok then u else flFail .nvmRead u)
      ∧ (readBack ks s).1.2.length ≤ ks.length
      ∧ (∀ i < (readBack ks s).1.2.length, ∃ k, ks[i]? = some k ∧ s.slot k = .valid
          ∧ (readBack ks s).1.2[i]? = some (s.record k))
      ∧ ((readBack ks s).1.1 = .ok → ∀ k, ks[(readBack ks s).1.2.length]? = some k → s.slot k ≠ .valid)
      ∧ (nvmAllOk ks.length s.draws → (readBack ks s).1.1 = .ok) := by
  induction ks generalizing s with
  | nil => exact ⟨0, s, Nat.le_refl _, .refl s, by simp [readBack], by simp [readBack], by simp [readBack],
      by simp [readBack], by simp [readBack]⟩
  | cons k ks ih =>
    rcases s.draws.nvmAnswer.ok_or_fail with h | h
    · simp only [readBack, nvmRead_ok h, unpackCommit_readN]
      split
      · rename_i he
        obtain ⟨n, u, hn, h1, h2, h3, h4, h5, h6⟩ := ih { s with
          draws := s.draws.afterNvm, nvmOps := s.nvmOps ++ [.read (slotAddr s.cfg k) s.cfg.recordSize .ok] } hc
        refine ⟨n + 1, u, by simpa using hn, .read h1, h2, by simpa using h3, ?_, ?_, ?_⟩
        · intro i hi
          cases i with
          | zero => exact ⟨k, rfl, (slot_eq_valid hc).2 he, rfl⟩
          | succ i => exact h4 i (by simpa using hi)
        · intro hok j hj
          exact h5 hok j (by simpa using hj)
        · exact fun hall => h6 (nvmAllOk_succ.1 hall).2
      · rename_i he
        refine ⟨1, _, by simp, .read (.refl _), rfl, by simp, by simp, ?_, by simp⟩
        intro _ j hj
        simp only [List.length_nil, List.getElem?_cons_zero, Option.some.injEq] at hj
        subst hj
        exact fun hv => he ((slot_eq_valid hc).1 hv)
    · simp only [readBack, nvmRead_fail h]
      refine ⟨1, _, by simp, .read (.refl _), (if_neg (by simp)).symm, by simp, by simp, by simp, ?_⟩
      intro hall
      rw [(nvmAllOk_succ.1 hall).1] at h
      cases h

/-- The walk of FL_COUNT_VALID over the slots `ks` (rules R355, R358). -/
theorem countValid_spec (ks : List Nat) (m : Nat) (s : State) (hc : s.cfg.commitVal ≠ s.cfg.erased) :
    ∃ n u, n ≤ ks.length ∧ ReadsOnly s u n
      ∧ (((countValid ks m s).1 = some (m + ks.countP fun k => s.slot k == .valid) ∧ (countValid ks m s).2 = u
            ∧ n = ks.length)
        ∨ ((countValid ks m s).1 = none ∧ (countValid ks m s).2 = flFail .nvmRead u ∧ ¬nvmAllOk ks.length s.draws)) := by
  induction ks generalizing m s with
  | nil => exact ⟨0, s, Nat.le_refl _, .refl s, .inl ⟨by simp [countValid], rfl, rfl⟩⟩
  | cons k ks ih =>
    rcases s.draws.nvmAnswer.ok_or_fail with h | h
    · simp only [countValid, nvmRead_ok h, slot_class_read]
      obtain ⟨n, u, hn, h1, h2⟩ := ih (if s.nvm.read (commitAddr s.cfg k) = s.cfg.commitVal then m + 1 else m)
        { s with draws := s.draws.afterNvm, nvmOps := s.nvmOps ++ [.read (commitAddr s.cfg k) 1 .ok] } hc
      refine ⟨n + 1, u, by simpa using hn, .read h1, ?_⟩
      rcases h2 with ⟨h2, h3, h4⟩ | ⟨h2, h3, h4⟩
      · refine .inl ⟨?_, h3, by simp [h4]⟩
        rw [h2, List.countP_cons]
        by_cases hv : s.nvm.read (commitAddr s.cfg k) = s.cfg.commitVal
        · rw [if_pos hv, if_pos (by simpa using (slot_eq_valid hc).2 hv)]
          refine congrArg some ?_
          rw [Nat.add_right_comm, Nat.add_assoc]; rfl
        · rw [if_neg hv, if_neg (by simpa using fun h => hv ((slot_eq_valid hc).1 h))]
          rfl
      · exact .inr ⟨h2, h3, fun hall => h4 (nvmAllOk_succ.1 hall).2⟩
    · simp only [countValid, nvmRead_fail h]
      refine ⟨1, _, by simp, .read (.refl _), .inr ⟨by simp, rfl, ?_⟩⟩
      intro hall
      rw [(nvmAllOk_succ.1 hall).1] at h
      cases h

end Sys2Proof.Machine
end

