-- ==== Sys2Proof/Laws/Append.lean ====
section
/-! SUPPORT. The three steps of an FL_APPEND (rules R340 to R346): what each leaves when its transaction returns OK,
when it returns FAIL, and when the supply fails after it; and every byte of the NVM after each. -/

namespace Sys2Proof.Machine

/-- How many erases the erase step makes. -/
def eraseCount (c : Config) (k : Nat) : Nat := if k % rps c = 0 then 1 else 0

/-- The transactions of the erase step, answered OK. -/
def eraseOps (c : Config) (k : Nat) : List NvmOp := if k % rps c = 0 then [.erase (k / rps c) .ok] else []

/-- The NVM after the erase step, answered OK. -/
def erasedNvm (c : Config) (m : Memory) (k : Nat) : Memory :=
  if k % rps c = 0 then m.fill (sectorAddr c (k / rps c)) c.sectorSize c.erased else m

/-- The NVM after the body step, answered OK. -/
def bodyNvm (c : Config) (m : Memory) (k : Nat) (body : List Byte) : Memory :=
  m.writeN (slotAddr c k) (programmed m (slotAddr c k) body)

/-- The NVM after the commit step, answered OK. -/
def commitNvm (c : Config) (m : Memory) (k : Nat) : Memory :=
  m.writeN (commitAddr c k) (programmed m (commitAddr c k) [c.commitVal])

theorem firstOfSector_eq (c : Config) (k : Nat) : firstOfSector c k = true ↔ k % rps c = 0 := by
  simp [firstOfSector]

theorem recordBody_eq (c : Config) (seq ms : Word) (r : LogRequest) :
    recordBody c seq ms r = bodyBytes c seq ms r.code r.flags r.msg := by
  simp [recordBody, bodyBytes, padMsg]

@[simp] theorem length_bodyBytes (c : Config) (seq ms : Word) (code flags : Half) (msg : List Byte) :
    (bodyBytes c seq ms code flags msg).length = 12 + c.msgLen := by
  simp [bodyBytes, le16, le32, List.length_take]
  omega

/-- FL_APPEND where it is admitted: the draw of the cut, then the erase step. -/
theorem execFlAppend_eq {s : State} (code flags : Half) (msg : List Byte) (now : Word) (hi : s.flash.inited = true)
    (hc : s.flash.cursor < capacity s.cfg) :
    exec (.flAppend code flags msg now) s = .next (appendErase s.draws.cutAnswer ⟨code, flags, msg⟩ now
      { s with draws := s.draws.afterCut, flash := { s.flash with status := .ok } }) := by
  simp [exec, execFlAppend, hi, hc, appendRecord, drawCut, flBegin, State.setDraws, State.setFlash]

theorem appendCount_eq (c : Config) (k : Nat) : appendCount c k = eraseCount c k + 2 := by
  unfold appendCount eraseCount
  split <;> rfl

theorem appendOps_eq (c : Config) (k : Nat) (body : List Byte) :
    appendOps c k body = eraseOps c k ++ [.program (slotAddr c k) body .ok]
      ++ [.program (slotAddr c k + (12 + c.msgLen)) [c.commitVal] .ok] := by
  unfold appendOps eraseOps
  simp

/-! The erase step. -/

theorem appendErase_ok {cut : Option CutPoint} {r : LogRequest} {now : Word} {s : State}
    (hc : cut = some .cut1 → s.flash.cursor % rps s.cfg ≠ 0)
    (hd : nvmAllOk (eraseCount s.cfg s.flash.cursor) s.draws) :
    ∃ ph, appendErase cut r now s = appendBody cut r now { s with
      flash  := { s.flash with phase := ph }
      nvm    := erasedNvm s.cfg s.nvm s.flash.cursor
      nvmOps := s.nvmOps ++ eraseOps s.cfg s.flash.cursor
      draws  := s.draws.afterNvms (eraseCount s.cfg s.flash.cursor) } := by
  unfold appendErase
  by_cases h : s.flash.cursor % rps s.cfg = 0
  · have hok : s.draws.nvmAnswer = .ok := by
      simp only [eraseCount, h, if_true] at hd
      exact hd 0 Nat.one_pos
    refine ⟨.erased, ?_⟩
    rw [if_pos ((firstOfSector_eq _ _).2 h), nvmErase_ok hok]
    simp only [eraseOps, erasedNvm, eraseCount, h, if_true, sectorOf]
    rw [if_neg fun hcut => hc hcut h]
    rfl
  · refine ⟨s.flash.phase, ?_⟩
    rw [if_neg (by simpa [firstOfSector] using h)]
    simp [eraseOps, erasedNvm, eraseCount, h, Draws.afterNvms]

theorem appendErase_fail {cut : Option CutPoint} {r : LogRequest} {now : Word} {s : State}
    (h : s.flash.cursor % rps s.cfg = 0) (hd : s.draws.nvmAnswer = .fail) :
    ∃ bs d, bs.length = s.cfg.sectorSize ∧ appendErase cut r now s = flDone (flFail .nvmErase { s with
      nvm    := s.nvm.writeN (sectorAddr s.cfg (s.flash.cursor / rps s.cfg)) bs
      nvmOps := s.nvmOps ++ [.erase (s.flash.cursor / rps s.cfg) .fail]
      draws  := d }) := by
  obtain ⟨bs, d, hl, he⟩ := nvmErase_fail (n := sectorOf s.cfg s.flash.cursor) hd
  refine ⟨bs, d, hl, ?_⟩
  unfold appendErase
  rw [if_pos ((firstOfSector_eq _ _).2 h), he]
  rfl

theorem appendErase_cut {r : LogRequest} {now : Word} {s : State}
    (h : s.flash.cursor % rps s.cfg = 0) (hd : s.draws.nvmAnswer = .ok) :
    appendErase (some .cut1) r now s = volatileReset { s with
      nvm    := erasedNvm s.cfg s.nvm s.flash.cursor
      nvmOps := s.nvmOps ++ eraseOps s.cfg s.flash.cursor
      draws  := s.draws.afterNvm } := by
  unfold appendErase
  rw [if_pos ((firstOfSector_eq _ _).2 h), nvmErase_ok hd]
  simp [eraseOps, erasedNvm, h, sectorOf]

/-! The body step. -/

theorem appendBody_ok {cut : Option CutPoint} {r : LogRequest} {now : Word} {s : State} (hc : cut ≠ some .cut2)
    (hd : s.draws.nvmAnswer = .ok) :
    appendBody cut r now s = appendCommit cut { s with
      flash  := { s.flash with phase := .bodyDone }
      nvm    := bodyNvm s.cfg s.nvm s.flash.cursor (bodyBytes s.cfg s.flash.nextSeq now r.code r.flags r.msg)
      nvmOps := s.nvmOps ++
        [.program (slotAddr s.cfg s.flash.cursor) (bodyBytes s.cfg s.flash.nextSeq now r.code r.flags r.msg) .ok]
      draws  := s.draws.afterNvm } := by
  unfold appendBody
  rw [nvmProgram_ok hd, recordBody_eq]
  simp [hc, setPhase, State.setFlash, bodyNvm]

theorem appendBody_fail {cut : Option CutPoint} {r : LogRequest} {now : Word} {s : State}
    (hd : s.draws.nvmAnswer = .fail) :
    ∃ n d, appendBody cut r now s = flDone (flFail .nvmProgram { s with
      nvm    := s.nvm.writeN (slotAddr s.cfg s.flash.cursor) (halfProgrammed s.nvm (slotAddr s.cfg s.flash.cursor)
        (bodyBytes s.cfg s.flash.nextSeq now r.code r.flags r.msg) n)
      nvmOps := s.nvmOps ++
        [.program (slotAddr s.cfg s.flash.cursor) (bodyBytes s.cfg s.flash.nextSeq now r.code r.flags r.msg) .fail]
      draws  := d }) := by
  obtain ⟨n, d, h⟩ := nvmProgram_fail (addr := slotAddr s.cfg s.flash.cursor)
    (bs := recordBody s.cfg s.flash.nextSeq now r) hd
  refine ⟨n, d, ?_⟩
  unfold appendBody
  rw [h, recordBody_eq]

theorem appendBody_cut {r : LogRequest} {now : Word} {s : State} (hd : s.draws.nvmAnswer = .ok) :
    appendBody (some .cut2) r now s = volatileReset { s with
      nvm    := bodyNvm s.cfg s.nvm s.flash.cursor (bodyBytes s.cfg s.flash.nextSeq now r.code r.flags r.msg)
      nvmOps := s.nvmOps ++
        [.program (slotAddr s.cfg s.flash.cursor) (bodyBytes s.cfg s.flash.nextSeq now r.code r.flags r.msg) .ok]
      draws  := s.draws.afterNvm } := by
  unfold appendBody
  rw [nvmProgram_ok hd, recordBody_eq]
  simp [bodyNvm]

/-! The commit step. -/

theorem appendCommit_ok {cut : Option CutPoint} {s : State} (hc : cut ≠ some .cut3) (hd : s.draws.nvmAnswer = .ok) :
    appendCommit cut s = { s with
      flash  := ⟨s.flash.inited, (s.flash.cursor + 1) % capacity s.cfg, s.flash.nextSeq + 1, s.flash.status, .idle⟩
      nvm    := commitNvm s.cfg s.nvm s.flash.cursor
      nvmOps := s.nvmOps ++ [.program (commitAddr s.cfg s.flash.cursor) [s.cfg.commitVal] .ok]
      draws  := s.draws.afterNvm
      result := .status s.flash.status } := by
  unfold appendCommit
  rw [nvmProgram_ok hd]
  simp [hc, flDone, State.setFlash, State.setResult, commitNvm]

theorem appendCommit_fail {cut : Option CutPoint} {s : State} (hd : s.draws.nvmAnswer = .fail) :
    ∃ n d, appendCommit cut s = flDone (flFail .nvmProgram { s with
      nvm    := s.nvm.writeN (commitAddr s.cfg s.flash.cursor)
        (halfProgrammed s.nvm (commitAddr s.cfg s.flash.cursor) [s.cfg.commitVal] n)
      nvmOps := s.nvmOps ++ [.program (commitAddr s.cfg s.flash.cursor) [s.cfg.commitVal] .fail]
      draws  := d }) := by
  obtain ⟨n, d, h⟩ := nvmProgram_fail (addr := commitAddr s.cfg s.flash.cursor) (bs := [s.cfg.commitVal]) hd
  refine ⟨n, d, ?_⟩
  unfold appendCommit
  rw [h]

theorem appendCommit_cut {s : State} (hd : s.draws.nvmAnswer = .ok) :
    appendCommit (some .cut3) s = volatileReset { s with
      nvm    := commitNvm s.cfg s.nvm s.flash.cursor
      nvmOps := s.nvmOps ++ [.program (commitAddr s.cfg s.flash.cursor) [s.cfg.commitVal] .ok]
      draws  := s.draws.afterNvm } := by
  unfold appendCommit
  rw [nvmProgram_ok hd]
  simp [commitNvm]

/-! The bytes. -/

theorem wf_erasedNvm {c : Config} {m : Memory} (hm : m.wf) (k : Nat) : (erasedNvm c m k).wf := by
  unfold erasedNvm
  split
  · exact Memory.wf_fill hm _ _ _
  · exact hm

theorem wf_bodyNvm {c : Config} {m : Memory} (hm : m.wf) (k : Nat) (body : List Byte) : (bodyNvm c m k body).wf :=
  Memory.wf_writeN hm _ _

theorem wf_commitNvm {c : Config} {m : Memory} (hm : m.wf) (k : Nat) : (commitNvm c m k).wf :=
  Memory.wf_writeN hm _ _

theorem read_erasedNvm {s : State} (hm : s.nvm.wf) (k a : Nat) :
    (erasedNvm s.cfg s.nvm k).read a = afterErase s k a := by
  unfold erasedNvm afterErase
  by_cases h : k % rps s.cfg = 0
  · rw [if_pos h, Memory.read_fill hm]
    simp only [h, true_and, inSector, sectorAddr, Nat.add_mul, Nat.one_mul, Nat.add_assoc]
  · rw [if_neg h, if_neg fun hc => h hc.1]

theorem read_bodyNvm {c : Config} {m : Memory} (hm : m.wf) (k : Nat) {body : List Byte}
    (hb : body.length = 12 + c.msgLen) (a : Nat) :
    (bodyNvm c m k body).read a =
      if inBody c k a then m.read a &&& body.getD (a - slotAddr c k) 0 else m.read a := by
  unfold bodyNvm
  rw [read_programmed hm, hb]

theorem read_commitNvm {c : Config} {m : Memory} (hm : m.wf) (k a : Nat) :
    (commitNvm c m k).read a =
      if a = slotAddr c k + (12 + c.msgLen) then m.read a &&& c.commitVal else m.read a := by
  unfold commitNvm
  rw [read_programmed hm]
  by_cases h : a = slotAddr c k + (12 + c.msgLen)
  · subst h
    rw [if_pos ⟨Nat.le_refl _, Nat.lt_succ_self _⟩, if_pos rfl]
    simp [commitAddr, bodyLen]
  · rw [if_neg h, if_neg]
    simp only [commitAddr, bodyLen, List.length_singleton]
    omega

end Sys2Proof.Machine
end

