-- ==== Sys2Proof/Laws/Decode.lean ====
section
/-! SUPPORT. Byte order and the taking of operands, in both directions: what is taken off a string that begins with an
encoded operand, and what a string begins with when an operand was taken off it. -/

namespace Sys2Proof

@[simp] theorem u16le_bytes (v : Half) : u16le (v.extractLsb' 0 8) (v.extractLsb' 8 8) = v := by
  unfold u16le
  ext i hi
  simp only [BitVec.getElem_append, BitVec.getElem_extractLsb']
  split
  · simp [BitVec.getLsbD_eq_getElem, hi]
  · rename_i h
    simp only [show 8 + (i - 8) = i by omega, BitVec.getLsbD_eq_getElem hi]

@[simp] theorem extract_u16le_low (a b : Byte) : (u16le a b).extractLsb' 0 8 = a := by
  unfold u16le
  ext i hi
  simp only [BitVec.getElem_extractLsb', BitVec.getLsbD_append, Nat.zero_add, if_pos hi]
  exact BitVec.getLsbD_eq_getElem hi

@[simp] theorem extract_u16le_high (a b : Byte) : (u16le a b).extractLsb' 8 8 = b := by
  unfold u16le
  ext i hi
  have h : ¬ 8 + i < 8 := by omega
  simp only [BitVec.getElem_extractLsb', BitVec.getLsbD_append, if_neg h, show 8 + i - 8 = i by omega]
  exact BitVec.getLsbD_eq_getElem hi

@[simp] theorem u32le_bytes (v : Word) :
    u32le (v.extractLsb' 0 8) (v.extractLsb' 8 8) (v.extractLsb' 16 8) (v.extractLsb' 24 8) = v := by
  unfold u32le
  ext i hi
  have hv : v.getLsbD i = v[i] := BitVec.getLsbD_eq_getElem hi
  simp only [BitVec.getElem_append, BitVec.getElem_extractLsb']
  split
  · simp [hv]
  · split
    · simp only [show 8 + (i - 8) = i by omega, hv]
    · split
      · simp only [show 16 + (i - 8 - 8) = i by omega, hv]
      · simp only [show 24 + (i - 8 - 8 - 8) = i by omega, hv]

theorem extract_u32le (a b c d : Byte) :
    (u32le a b c d).extractLsb' 0 8 = a ∧ (u32le a b c d).extractLsb' 8 8 = b
      ∧ (u32le a b c d).extractLsb' 16 8 = c ∧ (u32le a b c d).extractLsb' 24 8 = d := by
  unfold u32le
  refine ⟨?_, ?_, ?_, ?_⟩ <;> (ext i hi; simp only [BitVec.getElem_extractLsb', BitVec.getLsbD_append])
  · simp only [Nat.zero_add, hi, if_true, BitVec.getLsbD_eq_getElem hi]
  · have h1 : ¬ 8 + i < 8 := by omega
    simp only [h1, if_false, Nat.add_sub_cancel_left, hi, if_true, BitVec.getLsbD_eq_getElem hi]
  · have h1 : ¬ 16 + i < 8 := by omega
    simp only [h1, if_false, show 16 + i - 8 = 8 + i by omega, show ¬ 8 + i < 8 by omega, Nat.add_sub_cancel_left,
      hi, if_true, BitVec.getLsbD_eq_getElem hi]
  · have h1 : ¬ 24 + i < 8 := by omega
    simp only [h1, if_false, show 24 + i - 8 = 16 + i by omega, show ¬ 16 + i < 8 by omega,
      show 16 + i - 8 = 8 + i by omega, show ¬ 8 + i < 8 by omega, Nat.add_sub_cancel_left,
      BitVec.getLsbD_eq_getElem hi]

@[simp] theorem length_le16 (v : Half) : (le16 v).length = 2 := rfl
@[simp] theorem length_le32 (v : Word) : (le32 v).length = 4 := rfl
@[simp] theorem length_lenPrefixed (bs : List Byte) : (lenPrefixed bs).length = bs.length + 1 := rfl

/-! Taking an operand off its encoding. -/

@[simp] theorem takeU8_cons (b : Byte) (bs : List Byte) : takeU8 (b :: bs) = some (b, bs) := rfl

@[simp] theorem takeBit_bitByte (v : Bool) (bs : List Byte) : takeBit (bitByte v :: bs) = some (v, bs) := by
  cases v <;> simp [takeBit, bitByte]

@[simp] theorem takeU16_le16 (v : Half) (bs : List Byte) : takeU16 (le16 v ++ bs) = some (v, bs) := by
  simp [le16, takeU16]

@[simp] theorem takeU32_le32 (v : Word) (bs : List Byte) : takeU32 (le32 v ++ bs) = some (v, bs) := by
  simp [le32, takeU32]

theorem takeBytes_append {n : Nat} {x : List Byte} (h : x.length = n) (bs : List Byte) :
    takeBytes n (x ++ bs) = some (x, bs) := by
  subst h
  simp [takeBytes]

theorem takeString_lenPrefixed {x : List Byte} (h : x.length ≤ 255) (bs : List Byte) :
    takeString (lenPrefixed x ++ bs) = some (x, bs) := by
  have hn : (BitVec.ofNat 8 x.length).toNat = x.length := by
    rw [BitVec.toNat_ofNat]; exact Nat.mod_eq_of_lt (by omega)
  simp only [takeString, lenPrefixed, List.cons_append, takeU8_cons, Option.bind_eq_bind, Option.bind_some, hn]
  exact takeBytes_append rfl bs

/-! What a string begins with when an operand was taken off it. -/

theorem takeU8_eq_some {bs : List Byte} {b : Byte} {r : List Byte} : takeU8 bs = some (b, r) ↔ bs = b :: r := by
  cases bs <;> simp [takeU8]

theorem takeBit_eq_some {bs : List Byte} {v : Bool} {r : List Byte} :
    takeBit bs = some (v, r) ↔ bs = bitByte v :: r := by
  constructor
  · intro h
    cases bs with
    | nil => simp [takeBit] at h
    | cons b bs =>
      simp only [takeBit] at h
      split at h
      · rename_i hb; simp at h; simp [bitByte, ← h.1, ← h.2, hb]
      · split at h
        · rename_i hb; simp at h; simp [bitByte, ← h.1, ← h.2, hb]
        · cases h
  · rintro rfl; simp

theorem takeU16_eq_some {bs : List Byte} {v : Half} {r : List Byte} :
    takeU16 bs = some (v, r) ↔ bs = le16 v ++ r := by
  constructor
  · intro h
    match bs with
    | [] => simp [takeU16] at h
    | [_] => simp [takeU16] at h
    | b0 :: b1 :: bs =>
      simp only [takeU16, Option.some.injEq, Prod.mk.injEq] at h
      obtain ⟨rfl, rfl⟩ := h
      simp [le16]
  · rintro rfl; simp

theorem takeU32_eq_some {bs : List Byte} {v : Word} {r : List Byte} :
    takeU32 bs = some (v, r) ↔ bs = le32 v ++ r := by
  constructor
  · intro h
    match bs with
    | [] => simp [takeU32] at h
    | [_] => simp [takeU32] at h
    | [_, _] => simp [takeU32] at h
    | [_, _, _] => simp [takeU32] at h
    | b0 :: b1 :: b2 :: b3 :: bs =>
      simp only [takeU32, Option.some.injEq, Prod.mk.injEq] at h
      obtain ⟨rfl, rfl⟩ := h
      obtain ⟨h0, h1, h2, h3⟩ := extract_u32le b0 b1 b2 b3
      simp [le32, h0, h1, h2, h3]
  · rintro rfl; simp

theorem takeBytes_eq_some {n : Nat} {bs x r : List Byte} :
    takeBytes n bs = some (x, r) ↔ bs = x ++ r ∧ x.length = n := by
  constructor
  · intro h
    unfold takeBytes at h
    split at h
    · rename_i hn
      simp only [Option.some.injEq, Prod.mk.injEq] at h
      obtain ⟨rfl, rfl⟩ := h
      simp [hn]
    · cases h
  · rintro ⟨rfl, h⟩
    exact takeBytes_append h r

theorem takeString_eq_some {bs x r : List Byte} :
    takeString bs = some (x, r) ↔ bs = lenPrefixed x ++ r ∧ x.length ≤ 255 := by
  constructor
  · intro h
    cases bs with
    | nil => simp [takeString, takeU8] at h
    | cons b bs =>
      simp only [takeString, takeU8_cons, Option.bind_eq_bind, Option.bind_some] at h
      obtain ⟨rfl, hx⟩ := takeBytes_eq_some.1 h
      have hb : b.toNat < 256 := b.isLt
      refine ⟨?_, by omega⟩
      simp [lenPrefixed, hx]
  · rintro ⟨rfl, h⟩
    exact takeString_lenPrefixed h r

@[simp] theorem needOperands_some (op : Byte) (r : Instr × List Byte) : needOperands op (some r) = .ok r := rfl
@[simp] theorem needOperands_none (op : Byte) : needOperands op none = .error (.badOperands op) := rfl

theorem needOperands_eq_ok {op : Byte} {o : Option (Instr × List Byte)} {r : Instr × List Byte} :
    needOperands op o = .ok r ↔ o = some r := by
  cases o <;> simp

/-- An instruction passes the link check exactly if the link it names, if any, exists. -/
theorem checkLink_eq_ok {c : Config} {i j : Instr} :
    checkLink c i = .ok j ↔ i = j ∧ ∀ link, i.link? = some link → c.hasLink link = true := by
  unfold checkLink
  cases h : i.link? with
  | none => simp
  | some link =>
    by_cases hl : c.hasLink link = true
    · simp [hl]
    · simp [hl]

end Sys2Proof
end

