-- ==== Sys2Proof/Laws/Ring.lean ====
section
/-! SUPPORT. What the ring buffer operations do to the bytes queued, under a capacity that is a power of two (rules R81,
R270 to R273). -/

namespace Sys2Proof.Machine

/-- An admitted configuration has a ring capacity that is a power of two and divides 2^16. -/
theorem Config.wf_rbN {c : Config} (h : c.wf = true) : ∃ k < 16, c.rbN = 2 ^ k := by
  simp only [Config.wf, Bool.and_eq_true, List.any_eq_true, List.mem_range, beq_iff_eq] at h
  exact h.1.1.1.1.1.1.1.1.1.1.1.1.1.2

/-- The mask of rule R81 is the remainder by the capacity. -/
theorem ringIndex_eq_mod {c : Config} {k : Nat} (hk : k < 16) (hc : c.rbN = 2 ^ k) (n : Half) :
    ringIndex c n = n.toNat % c.rbN := by
  have h1 : 2 ^ k ≤ 2 ^ 15 := Nat.pow_le_pow_right (by omega) (by omega)
  have h2 : (2 ^ k - 1) % 2 ^ 16 = 2 ^ k - 1 := Nat.mod_eq_of_lt (by omega)
  simp only [ringIndex, hc, BitVec.toNat_and, BitVec.toNat_ofNat, h2]
  exact Nat.and_two_pow_sub_one_eq_mod _ _

theorem ringIndex_lt {c : Config} (h : c.wf = true) (n : Half) : ringIndex c n < c.rbN := by
  obtain ⟨k, hk, hc⟩ := Config.wf_rbN h
  rw [ringIndex_eq_mod hk hc]
  exact Nat.mod_lt _ (by rw [hc]; positivity)

/-- Counter values less than a capacity apart have different indices. -/
theorem ringIndex_ne {c : Config} (h : c.wf = true) {a b : Half} (h1 : a ≠ b) (h2 : (b - a).toNat < c.rbN) :
    ringIndex c a ≠ ringIndex c b := by
  obtain ⟨k, hk, hc⟩ := Config.wf_rbN h
  rw [ringIndex_eq_mod hk hc, ringIndex_eq_mod hk hc, hc]
  rw [hc] at h2
  intro he
  apply h1
  have hd : 2 ^ k ∣ 2 ^ 16 := pow_dvd_pow 2 (by omega)
  obtain ⟨q, hq⟩ := hd
  have ha := a.isLt
  have hb := b.isLt
  have hs : (b - a).toNat = (2 ^ 16 - a.toNat + b.toNat) % 2 ^ 16 := by rw [BitVec.toNat_sub]
  have hpos : 0 < 2 ^ k := by positivity
  have hm : (b - a).toNat % 2 ^ k = 0 := by
    rw [hs, Nat.mod_mod_of_dvd _ ⟨q, hq⟩]
    have e : 2 ^ 16 - a.toNat + b.toNat + a.toNat = 2 ^ 16 + b.toNat := by omega
    have : (2 ^ 16 - a.toNat + b.toNat + a.toNat) % 2 ^ k = a.toNat % 2 ^ k := by
      rw [e, hq, Nat.mul_add_mod, he]
    have h3 : (2 ^ 16 - a.toNat + b.toNat + a.toNat) ≡ 0 + a.toNat [MOD 2 ^ k] := by
      simpa [Nat.ModEq] using this
    exact Nat.ModEq.add_right_cancel' _ h3
  have hz : (b - a).toNat = 0 := by
    rw [Nat.mod_eq_of_lt h2] at hm; exact hm
  have hz' : b - a = 0 := BitVec.eq_of_toNat_eq (by simpa using hz)
  have : b = a := by
    have := BitVec.sub_add_cancel b a
    rw [hz'] at this; simpa using this.symm
  exact this.symm

theorem ringCount_lt (l : Link) : ringCount l < 2 ^ 16 := BitVec.isLt _

/-- The head is the tail plus the count. -/
theorem head_eq_tail_add (l : Link) : l.rbTail + BitVec.ofNat 16 (ringCount l) = l.rbHead := by
  unfold ringCount
  rw [BitVec.ofNat_toNat, BitVec.setWidth_eq, BitVec.add_comm]
  exact BitVec.sub_add_cancel _ _

theorem ringCount_put {l l' : Link} (hh : l'.rbHead = l.rbHead + 1) (ht : l'.rbTail = l.rbTail)
    (hn : ringCount l + 1 < 2 ^ 16) : ringCount l' = ringCount l + 1 := by
  have hs : l'.rbHead - l'.rbTail = (l.rbHead - l.rbTail) + 1 := by rw [hh, ht]; bv_omega
  unfold ringCount at hn ⊢
  rw [hs]
  generalize l.rbHead - l.rbTail = x at hn
  bv_omega

theorem ringCount_get {l l' : Link} (hh : l'.rbHead = l.rbHead) (ht : l'.rbTail = l.rbTail + 1)
    (hn : ringCount l ≠ 0) : ringCount l' + 1 = ringCount l := by
  have hs : l'.rbHead - l'.rbTail = (l.rbHead - l.rbTail) - 1 := by rw [hh, ht]; bv_omega
  unfold ringCount at hn ⊢
  rw [hs]
  generalize l.rbHead - l.rbTail = x at hn
  bv_omega

@[simp] theorem length_ringContents (c : Config) (l : Link) : (ringContents c l).length = ringCount l := by
  simp [ringContents]

theorem ringContents_eq_nil {c : Config} {l : Link} (h : ringCount l = 0) : ringContents c l = [] := by
  simp [ringContents, h]

/-- The contents depend on the storage and the two counters only. -/
theorem ringContents_congr {c : Config} {l l' : Link} (hb : l'.rbBuf = l.rbBuf) (hh : l'.rbHead = l.rbHead)
    (ht : l'.rbTail = l.rbTail) : ringContents c l' = ringContents c l := by
  simp only [ringContents, ringCount, hb, hh, ht]

/-- RB_PUT with room queues the byte last. -/
theorem ringContents_put {c : Config} (hw : c.wf = true) {l l' : Link} (hok : ringOk c l) (hn : ringCount l ≠ c.rbN)
    {b : Byte} (hb : l'.rbBuf = l.rbBuf.set (ringIndex c l.rbHead) b) (hh : l'.rbHead = l.rbHead + 1)
    (ht : l'.rbTail = l.rbTail) :
    ringOk c l' ∧ ringContents c l' = ringContents c l ++ [b] := by
  obtain ⟨k, hk, hc⟩ := Config.wf_rbN hw
  have h15 : 2 ^ k ≤ 2 ^ 15 := Nat.pow_le_pow_right (by omega) (by omega)
  obtain ⟨hlen, hle⟩ := hok
  have hlt : ringCount l < c.rbN := by omega
  have hcnt := ringCount_put hh ht (by omega)
  refine ⟨⟨by rw [hb]; simpa using hlen, by omega⟩, ?_⟩
  unfold ringContents
  rw [hcnt, List.range_succ, List.map_append, List.map_singleton, ht, head_eq_tail_add, hb]
  congr 1
  · apply List.map_congr_left
    intro i hi
    rw [List.mem_range] at hi
    have hne : ringIndex c (l.rbTail + BitVec.ofNat 16 i) ≠ ringIndex c l.rbHead := by
      have hd : (l.rbHead - (l.rbTail + BitVec.ofNat 16 i)).toNat = ringCount l - i := by
        have hc16 := ringCount_lt l
        unfold ringCount at *
        bv_omega
      apply ringIndex_ne hw
      · intro he
        rw [he, BitVec.sub_self] at hd
        simp at hd; omega
      · omega
    simp only [List.getD_eq_getElem?_getD, List.getElem?_set_ne hne.symm]
  · have : ringIndex c l.rbHead < l.rbBuf.length := by rw [hlen]; exact ringIndex_lt hw _
    simp [List.getD_eq_getElem?_getD, this]

/-- RB_GET takes the oldest byte. -/
theorem ringContents_get {c : Config} {l l' : Link} (hok : ringOk c l) (hn : ringCount l ≠ 0)
    (hb : l'.rbBuf = l.rbBuf) (hh : l'.rbHead = l.rbHead) (ht : l'.rbTail = l.rbTail + 1) :
    ringOk c l' ∧ ringContents c l = l.rbBuf.getD (ringIndex c l.rbTail) 0 :: ringContents c l' := by
  have hcnt := ringCount_get hh ht hn
  obtain ⟨hlen, hle⟩ := hok
  refine ⟨⟨by rw [hb]; exact hlen, by omega⟩, ?_⟩
  unfold ringContents
  rw [← hcnt, List.range_succ_eq_map, List.map_cons, List.map_map]
  congr 1
  · simp
  · apply List.map_congr_left
    intro i _
    simp only [Function.comp, hb, ht]
    congr 2
    have : BitVec.ofNat 16 i.succ = 1 + BitVec.ofNat 16 i := by bv_omega
    rw [this, ← BitVec.add_assoc]

/-! Each operation once. -/

theorem ringPut_full {c : Config} {b : Byte} {l : Link} (h : ringCount l = c.rbN) : ringPut c b l = (l, false) := by
  simp [ringPut, h]

theorem ringPut_room {c : Config} {b : Byte} {l : Link} (h : ringCount l ≠ c.rbN) :
    ringPut c b l
      = ({ l with rbBuf := l.rbBuf.set (ringIndex c l.rbHead) b, rbHead := l.rbHead + 1 }, true) := by
  simp [ringPut, h]

theorem ringGet_empty {c : Config} {l : Link} (h : ringCount l = 0) : ringGet c l = (l, none) := by
  simp [ringGet, h]

theorem ringGet_some {c : Config} {l : Link} (h : ringCount l ≠ 0) :
    ringGet c l = ({ l with rbTail := l.rbTail + 1 }, some (l.rbBuf.getD (ringIndex c l.rbTail) 0)) := by
  simp [ringGet, h]

/-- All that RB_WRITE can do: it writes the storage and the head only, and queues what fits, in order. -/
theorem ringWrite_spec {c : Config} (hw : c.wf = true) (bytes : List Byte) {l : Link} (hok : ringOk c l) :
    (ringWrite c bytes l).2 = min bytes.length (c.rbN - ringCount l)
      ∧ ringOk c (ringWrite c bytes l).1
      ∧ ringContents c (ringWrite c bytes l).1
          = ringContents c l ++ bytes.take (min bytes.length (c.rbN - ringCount l))
      ∧ (ringWrite c bytes l).1
          = { l with rbBuf := (ringWrite c bytes l).1.rbBuf, rbHead := (ringWrite c bytes l).1.rbHead } := by
  induction bytes generalizing l with
  | nil => simp [ringWrite, hok]
  | cons b bs ih =>
    by_cases hn : ringCount l = c.rbN
    · simp [ringWrite, ringPut_full hn, hn, hok]
    · obtain ⟨k, hk, hc⟩ := Config.wf_rbN hw
      have h15 : 2 ^ k ≤ 2 ^ 15 := Nat.pow_le_pow_right (by omega) (by omega)
      have hle := hok.2
      obtain ⟨hok', hcont⟩ := ringContents_put hw hok hn (b := b)
        (l' := { l with rbBuf := l.rbBuf.set (ringIndex c l.rbHead) b, rbHead := l.rbHead + 1 }) rfl rfl rfl
      have hcnt := ringCount_put (l := l)
        (l' := { l with rbBuf := l.rbBuf.set (ringIndex c l.rbHead) b, rbHead := l.rbHead + 1 }) rfl rfl (by omega)
      obtain ⟨h1, h2, h3, h4⟩ := ih hok'
      rw [hcnt] at h1 h3
      have hmin : min (bs.length + 1) (c.rbN - ringCount l) = min bs.length (c.rbN - (ringCount l + 1)) + 1 := by omega
      simp only [ringWrite, ringPut_room hn, List.length_cons]
      refine ⟨by rw [h1]; omega, h2, ?_, ?_⟩
      · rw [h3, hcont, hmin, List.take_succ_cons, List.append_assoc, List.singleton_append]
      · rw [h4]

end Sys2Proof.Machine
end

