-- ==== Sys2Proof/Laws/Links.lean ====
section
/-! SUPPORT. What the parser does in each of its states (rules R287 to R292), who may use a ring buffer (R275), and what
draining does to the ring buffer (R312). -/

namespace Sys2Proof.Machine

theorem claimRing_eq_some {u : RingUser} {l : Link} (h : l.user = none ∨ l.user = some u) :
    claimRing u l = some { l with user := some u } := by
  simp [claimRing, h]

theorem claimRing_eq_none {u v : RingUser} {l : Link} (h : l.user = some v) (hv : v ≠ u) : claimRing u l = none := by
  simp [claimRing, h, hv]

/-- An operation on a link that exists runs on that link. -/
theorem onLink_eq {link : Byte} {s : State} {l : Link} (h : s.links[link.toNat]? = some l)
    (f : Link → Host.Outcome State Fault Refusal) : onLink link s f = f l := by
  simp [onLink, h]

/-- Writing back the link that stands there changes nothing. -/
theorem links_set_self {s : State} {k : Nat} {l : Link} (h : s.links[k]? = some l) : s.links.set k l = s.links := by
  rw [List.getElem?_eq_some_iff] at h
  obtain ⟨h, rfl⟩ := h
  simp

/-! The parser. -/

section
variable {c : Config} {role : Role} {b : Byte} {l : Link}

theorem fpFeed_noise (h : l.fpState = .waitStart) (hb : b ≠ c.frameStart) : fpFeed c role b l = (l, none) := by
  simp [fpFeed, h, hb]

theorem fpFeed_start (h : l.fpState = .waitStart) (hb : b = c.frameStart) :
    fpFeed c role b l = ({ l with fpBuf := l.fpBuf.set 0 b, fpIdx := 1, fpState := .waitLen }, none) := by
  simp [fpFeed, h, hb]

theorem fpFeed_badCmd (h : l.fpState = .waitLen) (hn : frameLen c role b = 0 ∨ c.fpBufLen < frameLen c role b) :
    fpFeed c role b l
      = ({ l with fpBuf := l.fpBuf.set 1 b, fpState := .waitStart, fpIdx := 0, fpExpected := 0 }, none) := by
  simp [fpFeed, h, hn, fpReset]

theorem fpFeed_cmd (h : l.fpState = .waitLen) (h0 : frameLen c role b ≠ 0) (hn : frameLen c role b ≤ c.fpBufLen) :
    fpFeed c role b l
      = ({ l with fpBuf := l.fpBuf.set 1 b, fpIdx := 2, fpExpected := frameLen c role b, fpState := .accum }, none) := by
  simp [fpFeed, h, h0, Nat.not_lt.2 hn]

theorem fpFeed_more (h : l.fpState = .accum) (hn : l.fpIdx + 1 < l.fpExpected) :
    fpFeed c role b l = ({ l with fpBuf := l.fpBuf.set l.fpIdx b, fpIdx := l.fpIdx + 1 }, none) := by
  simp [fpFeed, h, hn]

theorem fpFeed_badEnd (h : l.fpState = .accum) (hn : l.fpExpected ≤ l.fpIdx + 1)
    (he : (l.fpBuf.set l.fpIdx b).getD (l.fpExpected - 1) 0 ≠ c.frameEnd) :
    fpFeed c role b l
      = ({ l with fpBuf := l.fpBuf.set l.fpIdx b, fpState := .waitStart, fpIdx := 0, fpExpected := 0 }, none) := by
  simp only [fpFeed, h]
  rw [if_neg (Nat.not_lt.2 hn), if_neg he]
  rfl

theorem fpFeed_done (h : l.fpState = .accum) (hn : l.fpExpected ≤ l.fpIdx + 1)
    (he : (l.fpBuf.set l.fpIdx b).getD (l.fpExpected - 1) 0 = c.frameEnd) :
    fpFeed c role b l
      = ({ l with fpBuf := l.fpBuf.set l.fpIdx b, fpState := .waitStart, fpIdx := 0, fpExpected := 0 },
         some (fpDecode { l with fpBuf := l.fpBuf.set l.fpIdx b, fpIdx := l.fpIdx + 1 })) := by
  simp only [fpFeed, h]
  rw [if_neg (Nat.not_lt.2 hn), if_pos he]
  rfl

/-- FP_FEED touches the parser only, and keeps the length of its buffer. -/
theorem fpFeed_frame (c : Config) (role : Role) (b : Byte) (l : Link) :
    (fpFeed c role b l).1 = { l with
        fpState    := (fpFeed c role b l).1.fpState
        fpIdx      := (fpFeed c role b l).1.fpIdx
        fpExpected := (fpFeed c role b l).1.fpExpected
        fpBuf      := (fpFeed c role b l).1.fpBuf }
      ∧ (fpFeed c role b l).1.fpBuf.length = l.fpBuf.length := by
  unfold fpFeed
  split
  · split <;> simp
  · simp only [fpReset]
    split <;> simp
  · simp only [fpReset]
    split
    · simp
    · split <;> simp

end

/-! Draining. -/

/-- Draining an empty ring buffer does nothing. -/
theorem drain_empty {c : Config} {role : Role} {n : Nat} {l : Link} (h : ringCount l = 0) :
    drain c role n l = (l, []) := by
  cases n <;> simp [drain, ringGet_empty h]

/-- Draining one byte: it is fed to the parser, a completed frame is dispatched, and the rest is drained. -/
theorem drain_succ {c : Config} {role : Role} {n : Nat} {l : Link} (h : ringCount l ≠ 0) :
    drain c role (n + 1) l =
      (let r := fpFeed c role (l.rbBuf.getD (ringIndex c l.rbTail) 0) { l with rbTail := l.rbTail + 1 }
       ((drain c role n r.1).1, (r.2.map (dispatchFrame c)).getD [] ++ (drain c role n r.1).2)) := by
  simp only [drain, ringGet_some h]
  generalize fpFeed c role _ _ = r
  obtain ⟨l', o⟩ := r
  cases o <;> simp

end Sys2Proof.Machine
end

