-- ==== Sys2Proof/Laws/PerInstr.lean ====
section
/-! SUPPORT. The family of per-instruction lemmas: how long each instruction's encoding is (rules R120, R130, R140). -/

namespace Sys2Proof.Laws

open Sys2Proof

/-- How many bytes an instruction takes: the opcode and its operand list (rule R140), a frame (R120), a record (R130). -/
def encodedLength (c : Config) : Instr → Nat
  | .frameReadReq _ _ => 4
  | .frameReadReply _ _ _ => 6
  | .frameWrite _ _ _ => 6
  | .frameAck _ _ _ => 6
  | .logRecord _ _ _ _ _ _ => 13 + c.msgLen
  | .coldReset => 1
  | .scanStart _ _ => 5 + c.rawLen
  | .scanTick _ _ => 5 + c.rawLen
  | .thermalSample _ _ _ => 8
  | .setBypass _ => 2
  | .btnEdge _ => 5
  | .reqReset => 1
  | .reqForce => 1
  | .doReset => 1
  | .doForce => 1
  | .rbPut _ _ => 3
  | .rbGet _ => 2
  | .rbWrite _ bytes => 3 + bytes.length
  | .fpFeed _ _ => 3
  | .ldRxByte _ _ => 3
  | .ldPoll _ => 2
  | .ldWriteU16 _ _ _ => 5
  | .ldReadU16 _ _ => 3
  | .ldSend _ _ _ _ _ => 7
  | .flInit => 1
  | .flAppend _ _ msg _ => 10 + msg.length
  | .flReadLastN _ _ => 5
  | .flCountValid => 1
  | .logWrite _ => 5
  | .swRead _ => 2
  | .powerLoss => 1

/-- The encoding of a well-formed instruction has exactly that many bytes, and one of them at least. -/
def EncodedLength.Statement (i : Instr) : Prop :=
  ∀ c : Config, i.wellFormed c = true →
    (encodeBytes c i).length = encodedLength c i ∧ 0 < encodedLength c i

theorem EncodedLength.frameReadReq (link : Byte) (var : Byte) : EncodedLength.Statement (.frameReadReq link var) :=
  fun _ _ => ⟨rfl, Nat.succ_pos _⟩

theorem EncodedLength.frameReadReply (link : Byte) (var : Byte) (value : Half) : EncodedLength.Statement (.frameReadReply link var value) :=
  fun _ _ => ⟨rfl, Nat.succ_pos _⟩

theorem EncodedLength.frameWrite (link : Byte) (var : Byte) (value : Half) : EncodedLength.Statement (.frameWrite link var value) :=
  fun _ _ => ⟨rfl, Nat.succ_pos _⟩

theorem EncodedLength.frameAck (link : Byte) (var : Byte) (value : Half) : EncodedLength.Statement (.frameAck link var value) :=
  fun _ _ => ⟨rfl, Nat.succ_pos _⟩

theorem EncodedLength.logRecord (seq : Word) (ms : Word) (code : Half) (flags : Half) (msg : List Byte) (commit : Byte) : EncodedLength.Statement (.logRecord seq ms code flags msg commit) := by
  intro c h
  simp only [Instr.wellFormed, beq_iff_eq] at h
  simp [encodeBytes, encodedLength, le16, le32, h]
  omega

theorem EncodedLength.coldReset : EncodedLength.Statement .coldReset :=
  fun _ _ => ⟨rfl, Nat.succ_pos _⟩

theorem EncodedLength.scanStart (raw : List Byte) (now : Word) : EncodedLength.Statement (.scanStart raw now) := by
  intro c h
  simp only [Instr.wellFormed, beq_iff_eq] at h
  simp [encodeBytes, encodedLength, le32, h]
  omega

theorem EncodedLength.scanTick (raw : List Byte) (now : Word) : EncodedLength.Statement (.scanTick raw now) := by
  intro c h
  simp only [Instr.wellFormed, beq_iff_eq] at h
  simp [encodeBytes, encodedLength, le32, h]
  omega

theorem EncodedLength.thermalSample (temp : Half) (fl : Byte) (raw32 : Word) : EncodedLength.Statement (.thermalSample temp fl raw32) :=
  fun _ _ => ⟨rfl, Nat.succ_pos _⟩

theorem EncodedLength.setBypass (v : Bool) : EncodedLength.Statement (.setBypass v) :=
  fun _ _ => ⟨rfl, Nat.succ_pos _⟩

theorem EncodedLength.btnEdge (now : Word) : EncodedLength.Statement (.btnEdge now) :=
  fun _ _ => ⟨rfl, Nat.succ_pos _⟩

theorem EncodedLength.reqReset : EncodedLength.Statement .reqReset :=
  fun _ _ => ⟨rfl, Nat.succ_pos _⟩

theorem EncodedLength.reqForce : EncodedLength.Statement .reqForce :=
  fun _ _ => ⟨rfl, Nat.succ_pos _⟩

theorem EncodedLength.doReset : EncodedLength.Statement .doReset :=
  fun _ _ => ⟨rfl, Nat.succ_pos _⟩

theorem EncodedLength.doForce : EncodedLength.Statement .doForce :=
  fun _ _ => ⟨rfl, Nat.succ_pos _⟩

theorem EncodedLength.rbPut (link : Byte) (b : Byte) : EncodedLength.Statement (.rbPut link b) :=
  fun _ _ => ⟨rfl, Nat.succ_pos _⟩

theorem EncodedLength.rbGet (link : Byte) : EncodedLength.Statement (.rbGet link) :=
  fun _ _ => ⟨rfl, Nat.succ_pos _⟩

theorem EncodedLength.rbWrite (link : Byte) (bytes : List Byte) : EncodedLength.Statement (.rbWrite link bytes) := by
  intro c _
  simp [encodeBytes, encodedLength]
  omega

theorem EncodedLength.fpFeed (link : Byte) (b : Byte) : EncodedLength.Statement (.fpFeed link b) :=
  fun _ _ => ⟨rfl, Nat.succ_pos _⟩

theorem EncodedLength.ldRxByte (link : Byte) (b : Byte) : EncodedLength.Statement (.ldRxByte link b) :=
  fun _ _ => ⟨rfl, Nat.succ_pos _⟩

theorem EncodedLength.ldPoll (link : Byte) : EncodedLength.Statement (.ldPoll link) :=
  fun _ _ => ⟨rfl, Nat.succ_pos _⟩

theorem EncodedLength.ldWriteU16 (link : Byte) (var : Byte) (value : Half) : EncodedLength.Statement (.ldWriteU16 link var value) :=
  fun _ _ => ⟨rfl, Nat.succ_pos _⟩

theorem EncodedLength.ldReadU16 (link : Byte) (var : Byte) : EncodedLength.Statement (.ldReadU16 link var) :=
  fun _ _ => ⟨rfl, Nat.succ_pos _⟩

theorem EncodedLength.ldSend (link : Byte) (cmd : Byte) (var : Byte) (hasValue : Bool) (value : Half) : EncodedLength.Statement (.ldSend link cmd var hasValue value) :=
  fun _ _ => ⟨rfl, Nat.succ_pos _⟩

theorem EncodedLength.flInit : EncodedLength.Statement .flInit :=
  fun _ _ => ⟨rfl, Nat.succ_pos _⟩

theorem EncodedLength.flAppend (code : Half) (flags : Half) (msg : List Byte) (now : Word) : EncodedLength.Statement (.flAppend code flags msg now) := by
  intro c _
  simp [encodeBytes, encodedLength, le16, le32]
  omega

theorem EncodedLength.flReadLastN (n : Half) (maxOut : Half) : EncodedLength.Statement (.flReadLastN n maxOut) :=
  fun _ _ => ⟨rfl, Nat.succ_pos _⟩

theorem EncodedLength.flCountValid : EncodedLength.Statement .flCountValid :=
  fun _ _ => ⟨rfl, Nat.succ_pos _⟩

theorem EncodedLength.logWrite (now : Word) : EncodedLength.Statement (.logWrite now) :=
  fun _ _ => ⟨rfl, Nat.succ_pos _⟩

theorem EncodedLength.swRead (var : Byte) : EncodedLength.Statement (.swRead var) :=
  fun _ _ => ⟨rfl, Nat.succ_pos _⟩

theorem EncodedLength.powerLoss : EncodedLength.Statement .powerLoss :=
  fun _ _ => ⟨rfl, Nat.succ_pos _⟩

end Sys2Proof.Laws
end

