-- ==== Sys2Proof/Laws/Slots.lean ====
section
/-! SUPPORT. Where the slots of the log region lie (rules R88, R89, R331): every slot lies inside its sector, two slots
do not overlap, and walking back one slot undoes the advance of the cursor. -/

namespace Sys2Proof.Machine

/-- What rule R6 asks of the record and of the sector. -/
theorem Config.wf_record {c : Config} (h : c.wf = true) : c.recordSize ≤ c.sectorSize ∧ 1 ≤ c.logSectors := by
  unfold Config.wf at h
  simp only [Bool.and_eq_true, decide_eq_true_eq] at h
  exact ⟨h.1.1.1.1.1.1.2, h.1.1.1.1.1.1.1.1.1.2⟩

theorem rps_pos {c : Config} (h : c.wf = true) : 0 < rps c :=
  Nat.div_pos (Config.wf_record h).1 (by simp [Config.recordSize])

theorem rps_mul_le (c : Config) : rps c * c.recordSize ≤ c.sectorSize := Nat.div_mul_le_self _ _

theorem slotAddr_eq (c : Config) (k : Nat) :
    slotAddr c k = c.logBase + k / rps c * c.sectorSize + k % rps c * c.recordSize := rfl

/-- A slot lies in its sector. -/
theorem slot_in_sector {c : Config} (h : c.wf = true) (k : Nat) {a : Nat} (ha : slotAddr c k ≤ a)
    (hb : a < slotAddr c k + c.recordSize) : inSector c (k / rps c) a := by
  have h1 : k % rps c + 1 ≤ rps c := Nat.mod_lt _ (rps_pos h)
  have h2 : (k % rps c + 1) * c.recordSize ≤ c.sectorSize :=
    Nat.le_trans (Nat.mul_le_mul_right _ h1) (rps_mul_le c)
  rw [slotAddr_eq] at ha hb
  rw [Nat.add_mul, Nat.one_mul] at h2
  unfold inSector
  rw [Nat.add_mul, Nat.one_mul]
  generalize k / rps c * c.sectorSize = x at *
  generalize k % rps c * c.recordSize = y at *
  omega

/-- Two sectors do not overlap. -/
theorem sector_unique {c : Config} {m n a : Nat} (hm : inSector c m a) (hn : inSector c n a) : m = n := by
  unfold inSector at hm hn
  rcases Nat.lt_trichotomy m n with h | h | h
  · have := Nat.mul_le_mul_right c.sectorSize (show m + 1 ≤ n from h)
    omega
  · exact h
  · have := Nat.mul_le_mul_right c.sectorSize (show n + 1 ≤ m from h)
    omega

/-- Two slots do not overlap. -/
theorem slot_unique {c : Config} (h : c.wf = true) {j k a : Nat} (hj : slotAddr c j ≤ a)
    (hj' : a < slotAddr c j + c.recordSize) (hk : slotAddr c k ≤ a) (hk' : a < slotAddr c k + c.recordSize) :
    j = k := by
  have hs := sector_unique (slot_in_sector h j hj hj') (slot_in_sector h k hk hk')
  rw [slotAddr_eq] at hj hj' hk hk'
  rw [hs] at hj hj'
  have hm : j % rps c = k % rps c := by
    rcases Nat.lt_trichotomy (j % rps c) (k % rps c) with hl | hl | hl
    · have := Nat.mul_le_mul_right c.recordSize (show j % rps c + 1 ≤ k % rps c from hl)
      rw [Nat.add_mul, Nat.one_mul] at this
      generalize k / rps c * c.sectorSize = x at *
      omega
    · exact hl
    · have := Nat.mul_le_mul_right c.recordSize (show k % rps c + 1 ≤ j % rps c from hl)
      rw [Nat.add_mul, Nat.one_mul] at this
      generalize k / rps c * c.sectorSize = x at *
      omega
  rw [← Nat.div_add_mod j (rps c), ← Nat.div_add_mod k (rps c), hs, hm]

theorem commitAddr_in_slot (c : Config) (k : Nat) :
    slotAddr c k ≤ commitAddr c k ∧ commitAddr c k < slotAddr c k + c.recordSize := by
  unfold commitAddr bodyLen Config.recordSize
  omega

theorem inBody_in_slot {c : Config} {k a : Nat} (h : inBody c k a) :
    slotAddr c k ≤ a ∧ a < slotAddr c k + c.recordSize := by
  unfold inBody at h
  unfold Config.recordSize
  omega

/-- A slot is one whose sector is one of the region's. -/
theorem sector_lt {c : Config} {k : Nat} (hk : k < capacity c) : k / rps c < c.logSectors := by
  unfold capacity at hk
  rw [Nat.mul_comm] at hk
  exact Nat.div_lt_of_lt_mul hk

/-- One back from the advanced cursor is the slot just written. -/
theorem slotBack_advance {c : Config} {k : Nat} (hk : k < capacity c) :
    slotBack c ((k + 1) % capacity c) 1 = k := by
  unfold slotBack
  by_cases h : k + 1 = capacity c
  · rw [h, Nat.mod_self, Nat.zero_add, ← h, Nat.add_sub_cancel, Nat.mod_eq_of_lt (Nat.lt_succ_self k)]
  · rw [Nat.mod_eq_of_lt (show k + 1 < capacity c by omega)]
    rw [show k + 1 + capacity c - 1 = k + capacity c by omega, Nat.add_mod_right, Nat.mod_eq_of_lt hk]

theorem slotBack_lt {c : Config} {k d : Nat} (h : 0 < capacity c) : slotBack c k d < capacity c := Nat.mod_lt _ h

/-- One back from a slot that is not the first of its sector is the slot before it. -/
theorem slotBack_one {c : Config} {k : Nat} (hk : k < capacity c) (h : k % rps c ≠ 0) :
    slotBack c k 1 + 1 = k ∧ slotBack c k 1 / rps c = k / rps c := by
  have h0 : k ≠ 0 := by rintro rfl; simp at h
  have h1 : slotBack c k 1 = k - 1 := by
    unfold slotBack
    rw [show k + capacity c - 1 = (k - 1) + capacity c by omega, Nat.add_mod_right, Nat.mod_eq_of_lt (by omega)]
  refine ⟨by omega, ?_⟩
  rw [h1]
  have hp : 0 < rps c := by
    rcases Nat.eq_zero_or_pos (rps c) with hz | hz
    · unfold capacity at hk; simp [hz] at hk
    · exact hz
  have h2 := Nat.div_add_mod k (rps c)
  have h3 := Nat.mod_lt k hp
  have h4 : k - 1 = rps c * (k / rps c) + (k % rps c - 1) := by omega
  rw [h4, Nat.mul_add_div hp, Nat.div_eq_of_lt (show k % rps c - 1 < rps c by omega), Nat.add_zero]

end Sys2Proof.Machine
end

