-- ==== Sys2Proof/Laws/Step.lean ====
section
/-! SUPPORT. What one step can do, said once, and the times an operation brings (rules R2, R4). -/

namespace Sys2Proof.Machine

@[simp] theorem noteTime_eq (i : Instr) (s : State) : noteTime i s = { s with lastNow := (nowOf i).or s.lastNow } := rfl

/-- With no input the state stays. -/
theorem step_idle {s : State} (h : s.inbox = []) : step s = .next s := by
  simp [step, fetch, h]

/-- A decoded instruction that meets the premise of rule R4 is executed. -/
theorem step_instr {s : State} {x : Input} {rest : List Input} {i : Instr} (h : s.inbox = x :: rest)
    (hd : decodeInput s.cfg x = .ok i) (ht : timeBaseOk i { s with inbox := rest } = true) :
    step s = exec i { s with inbox := rest, lastNow := (nowOf i).or s.lastNow } := by
  simp only [step, fetch, h, State.setInbox, hd, ht, if_true]
  rfl

/-- One that breaks it is refused. -/
theorem step_broken {s : State} {x : Input} {rest : List Input} {i : Instr} (h : s.inbox = x :: rest)
    (hd : decodeInput s.cfg x = .ok i) (ht : timeBaseOk i { s with inbox := rest } = false) :
    step s = .refused .timeBaseBroken := by
  simp [step, fetch, h, State.setInbox, hd, ht]

/-- An input that does not decode. -/
theorem step_undecoded {s : State} {x : Input} {rest : List Input} {e : DecodeError} (h : s.inbox = x :: rest)
    (hd : decodeInput s.cfg x = .error e) : step s = receiveUndecoded e x { s with inbox := rest } := by
  simp [step, fetch, h, State.setInbox, hd]

/-- An input that does not decode goes on only as bytes at a UART. -/
theorem receiveUndecoded_next {e : DecodeError} {x : Input} {s t : State} (h : receiveUndecoded e x s = .next t) :
    ∃ link, x.port = .uart link ∧ receiveFrame link x.bytes s = .next t := by
  unfold receiveUndecoded at h
  split at h
  · exact ⟨_, ‹_›, h⟩
  · cases h

/-- All a step that answers a next state can have done: nothing, one instruction, or bytes at a UART. -/
theorem step_cases {s t : State} (h : step s = .next t) :
    (s.inbox = [] ∧ t = s)
    ∨ (∃ x rest i, s.inbox = x :: rest ∧ decodeInput s.cfg x = .ok i ∧ timeBaseOk i { s with inbox := rest } = true
        ∧ exec i { s with inbox := rest, lastNow := (nowOf i).or s.lastNow } = .next t)
    ∨ ∃ link bytes rest, s.inbox = ⟨.uart link, bytes⟩ :: rest
        ∧ receiveFrame link bytes { s with inbox := rest } = .next t := by
  cases hs : s.inbox with
  | nil => rw [step_idle hs] at h; cases h; exact .inl ⟨rfl, rfl⟩
  | cons x rest =>
    refine .inr ?_
    cases hd : decodeInput s.cfg x with
    | ok i =>
      cases ht : timeBaseOk i { s with inbox := rest } with
      | true => exact .inl ⟨x, rest, i, rfl, hd, ht, by rw [← step_instr hs hd ht, h]⟩
      | false => rw [step_broken hs hd ht] at h; cases h
    | error e =>
      rw [step_undecoded hs hd] at h
      obtain ⟨link, hp, hr⟩ := receiveUndecoded_next h
      refine .inr ⟨link, x.bytes, rest, ?_, hr⟩
      rw [← hp]

/-- When an operation meets the premise of rule R4. -/
theorem timeBaseOk_iff {i : Instr} {s : State} :
    timeBaseOk i s = true ↔ ∀ now, nowOf i = some now →
      (∀ last, s.lastNow = some last → ¬(now.toNat < last.toNat ∧ 2 ^ 31 ≤ (now - last).toNat))
      ∧ ∀ t0 ∈ timesCompared i s, (now - t0).toNat < 2 ^ 31 := by
  unfold timeBaseOk goesBack elapsed timeLimit
  cases nowOf i with
  | none => simp
  | some now =>
    cases s.lastNow with
    | none => simp
    | some last =>
      simp only [Bool.and_eq_true, Bool.not_eq_true', Bool.and_eq_false_imp, decide_eq_true_eq, decide_eq_false_iff_not,
        List.all_eq_true, Option.some.injEq, forall_eq', not_and, Nat.reducePow]

end Sys2Proof.Machine
end

