-- ==== Sys2Proof/Tests/Slice0.lean ====
section
/-! SUPPORT. Tests of the model's own: the smoke of WellFormed, the words of spec 30_encoding.md decoded, one or two
single steps of each instruction with the values spec 95_test_vectors.md gives. -/

namespace Sys2Proof.Tests

open Sys2Proof Sys2Proof.Machine

/-! ## WellFormed refuses what it should -/

theorem test_wf_link : (Instr.rbGet 1).wellFormed Config.default = false := by decide
theorem test_wf_frame_link : (Instr.frameAck 1 0 0).wellFormed Config.default = false := by decide
theorem test_wf_raw_short : (Instr.scanStart [0xFF] 0).wellFormed Config.default = false := by decide
theorem test_wf_raw_long : (Instr.scanTick [0xFF, 0x0B, 0x00] 0).wellFormed Config.default = false := by decide
theorem test_wf_string : (Instr.rbWrite 0 (List.replicate 256 0)).wellFormed Config.default = false := by
  decide +kernel
theorem test_wf_msg : (Instr.flAppend 0 0 (List.replicate 256 0) 0).wellFormed Config.default = false := by
  decide +kernel
theorem test_wf_record : (Instr.logRecord 0 0 0 0 [0x41] 0).wellFormed Config.default = false := by decide
theorem test_wf_accepts : (Instr.flAppend 0 0 (List.replicate 255 0) 0).wellFormed Config.default = true := by
  decide +kernel

theorem test_wf_config : Config.default.wf = true := by decide
theorem test_wf_debounce : { Config.default with debounceN := 0 }.wf = false := by decide
theorem test_wf_rb_not_power : { Config.default with rbN := 6 }.wf = false := by decide
theorem test_wf_rb_too_big : { Config.default with rbN := 65536 }.wf = false := by decide
theorem test_wf_no_latch_err : { Config.default with nLatchErr := 0 }.wf = false := by decide
theorem test_wf_no_latch : { Config.default with nLatch := 0 }.wf = false := by decide
theorem test_wf_no_queue : { Config.default with logqDepth := 0 }.wf = false := by decide
theorem test_wf_no_sector : { Config.default with logSectors := 0 }.wf = false := by decide
theorem test_wf_sector_zero : { Config.default with sectorSize := 0 }.wf = false := by decide
theorem test_wf_log_base : { Config.default with logBase := 33 }.wf = false := by decide
theorem test_wf_record_fits : { Config.default with sectorSize := 32 }.wf = false := by decide
theorem test_wf_commands : { Config.default with cmdAck := 0x02 }.wf = false := by decide
theorem test_wf_read_write : { Config.default with cmdRead := 0x02 }.wf = false := by decide
theorem test_wf_read_ack : { Config.default with cmdRead := 0x06 }.wf = false := by decide
theorem test_wf_commit : { Config.default with commitVal := 0xFF }.wf = false := by decide
theorem test_wf_links : { Config.default with roles := List.replicate 257 .slave }.wf = false := by
  decide +kernel
theorem test_wf_status_ids : { Config.default with varStatusActive := 4 }.wf = false := by decide

/-! ## Decoding: words written out from rules R140, R120, R130 and the words of spec 95_test_vectors.md -/

/-- Decode an operation word in the default configuration. -/
def word (bytes : List Byte) : Except DecodeError Instr := decodeInput Config.default ⟨.command, bytes⟩

/-- Decode the bytes at UART 0. -/
def wire (bytes : List Byte) : Except DecodeError Instr := decodeInput Config.default ⟨.uart 0, bytes⟩

theorem test_word_coldReset : word [0x00] = .ok .coldReset := by decide
theorem test_word_scanStart : word [0x01, 0x05, 0x00, 0x64, 0x00, 0x00, 0x00] = .ok (.scanStart [0x05, 0x00] 100) := by
  decide
theorem test_word_scanTick : word [0x02, 0xFF, 0x09, 0xAA, 0x0F, 0x00, 0x00] = .ok (.scanTick [0xFF, 0x09] 4010) := by
  decide
theorem test_word_thermalSample :
    word [0x03, 0xF1, 0x00, 0x00, 0x78, 0x56, 0x34, 0x12] = .ok (.thermalSample 241 0 0x12345678) := by decide
theorem test_word_setBypass : word [0x04, 0x01] = .ok (.setBypass true) := by decide
theorem test_word_setBypass_two : word [0x04, 0x02] = .error (.badOperands 0x04) := by decide
theorem test_word_btnEdge : word [0x05, 0x04, 0x10, 0x00, 0x00] = .ok (.btnEdge 4100) := by decide
theorem test_word_reqReset : word [0x06] = .ok .reqReset := by decide
theorem test_word_reqForce : word [0x07] = .ok .reqForce := by decide
theorem test_word_doReset : word [0x08] = .ok .doReset := by decide
theorem test_word_doForce : word [0x09] = .ok .doForce := by decide
theorem test_word_rbPut : word [0x10, 0x00, 0x41] = .ok (.rbPut 0 0x41) := by decide
theorem test_word_rbGet : word [0x11, 0x00] = .ok (.rbGet 0) := by decide
theorem test_word_rbWrite : word [0x12, 0x00, 0x03, 0x01, 0x02, 0x03] = .ok (.rbWrite 0 [0x01, 0x02, 0x03]) := by decide
theorem test_word_fpFeed : word [0x18, 0x00, 0xAA] = .ok (.fpFeed 0 0xAA) := by decide
theorem test_word_ldRxByte : word [0x20, 0x00, 0xAA] = .ok (.ldRxByte 0 0xAA) := by decide
theorem test_word_ldPoll : word [0x21, 0x00] = .ok (.ldPoll 0) := by decide
theorem test_word_ldWriteU16 : word [0x22, 0x00, 0x04, 0x34, 0x12] = .ok (.ldWriteU16 0 4 0x1234) := by decide
theorem test_word_ldReadU16 : word [0x23, 0x00, 0x06] = .ok (.ldReadU16 0 6) := by decide
theorem test_word_ldSend :
    word [0x24, 0x00, 0x06, 0x04, 0x01, 0x30, 0x01] = .ok (.ldSend 0 0x06 4 true 0x0130) := by decide
theorem test_word_flInit : word [0x30] = .ok .flInit := by decide
theorem test_word_flAppend :
    word [0x31, 0x03, 0x00, 0x00, 0x00, 0x0B, 0x4C, 0x41, 0x54, 0x43, 0x48, 0x20, 0x45, 0x52, 0x52, 0x4F, 0x52, 0x40,
        0xE2, 0x01, 0x00]
      = .ok (.flAppend 3 0 [0x4C, 0x41, 0x54, 0x43, 0x48, 0x20, 0x45, 0x52, 0x52, 0x4F, 0x52] 123456) := by decide
theorem test_word_flReadLastN : word [0x32, 0x01, 0x00, 0x02, 0x00] = .ok (.flReadLastN 1 2) := by decide
theorem test_word_flCountValid : word [0x33] = .ok .flCountValid := by decide
theorem test_word_logWrite : word [0x34, 0xFF, 0x0F, 0x00, 0x00] = .ok (.logWrite 4095) := by decide
theorem test_word_swRead : word [0x40, 0x06] = .ok (.swRead 6) := by decide
theorem test_word_powerLoss : word [0x7F] = .ok .powerLoss := by decide
theorem test_word_unknown : word [0x41] = .error (.unknownOpcode 0x41) := by decide
theorem test_word_empty : word [] = .error .emptyWord := by decide
theorem test_word_too_long : word [0x06, 0x00] = .error (.badOperands 0x06) := by decide
theorem test_word_no_link : word [0x11, 0x01] = .error (.noSuchLink 1) := by decide

theorem test_wire_readReq : wire [0xAA, 0x01, 0x06, 0x55] = .ok (.frameReadReq 0 6) := by decide
theorem test_wire_readReply : wire [0xAA, 0x01, 0x06, 0x2F, 0x19, 0x55] = .ok (.frameReadReply 0 6 0x192F) := by decide
theorem test_wire_write : wire [0xAA, 0x02, 0x04, 0x34, 0x12, 0x55] = .ok (.frameWrite 0 4 0x1234) := by decide
theorem test_wire_ack : wire [0xAA, 0x06, 0x04, 0x34, 0x12, 0x55] = .ok (.frameAck 0 4 0x1234) := by decide
theorem test_wire_bad_end : wire [0xAA, 0x02, 0x04, 0x34, 0x12, 0x54] = .error .notAFrame := by decide
theorem test_record_image :
    decodeInput Config.default ⟨.nvm, [0x01, 0x00, 0x00, 0x00, 0x40, 0xE2, 0x01, 0x00, 0x03, 0x00, 0x00, 0x00, 0x4C, 0x41,
        0x54, 0x43, 0x48, 0x20, 0x45, 0x52, 0x52, 0x4F, 0x52, 0x00, 0x00, 0x00, 0x00, 0x00, 0x00, 0x00, 0x00, 0x00, 0x7E]⟩
      = .ok (.logRecord 1 123456 3 0 ([0x4C, 0x41, 0x54, 0x43, 0x48, 0x20, 0x45, 0x52, 0x52, 0x4F, 0x52]
          ++ List.replicate 9 0) 0x7E) := by decide
/-- The opcode table numbers a frame row with its first byte most significant. -/
theorem test_table_frame : decodeTableWord 32 0xAA010655 = some (.frameReadReq 0 6) := by decide
/-- An operation row: the opcode is the low byte; the operands above are zeros. -/
theorem test_table_operation : decodeTableWord 8 0x03 = some (.thermalSample 0 0 0) := by
  decide +kernel

/-! ## Single steps -/

/-- What one field of the state is after one instruction; none if it does not answer a next state. -/
def after {α : Type} (f : State → α) (i : Instr) (s : State) : Option α :=
  match exec i s with
  | .next t => some (f t)
  | _ => none

/-- The reason an instruction is refused, if it is. -/
def refusal (i : Instr) (s : State) : Option Refusal :=
  match exec i s with
  | .refused r => some r
  | _ => none

/-- The sample H of spec 95_test_vectors.md: `FF 0B`. -/
def healthy : List Bool := List.replicate 10 true ++ [false, true] ++ List.replicate 4 false

/-- A running, ready block whose stable inputs are `st`. -/
def running (st : List Bool) : State :=
  { State.reset with scan := ⟨st, List.replicate 16 0, true, true, 0⟩ }

/-- A configuration with two slots a sector, four in all. -/
def tiny : Config := { Config.default with sectorSize := 66 }

/-- The log of `tiny` at `cursor`, every draw answered OK and no power loss. -/
def logged (m : Memory) (cursor : Nat) (seq : Word) : State :=
  { State.resetWith tiny with
    nvm   := m
    flash := ⟨true, cursor, seq, .ok, .idle⟩
    draws := ⟨List.replicate 40 .ok, [], List.replicate 8 none, 0⟩ }

/-- The text LATCH ERROR. -/
def latchError : List Byte := [0x4C, 0x41, 0x54, 0x43, 0x48, 0x20, 0x45, 0x52, 0x52, 0x4F, 0x52]

/-- A master at link 0. -/
def masterLink : State := State.resetWith { Config.default with roles := [.master] }

/-- A link whose ring buffer holds `bytes`. -/
def queuedLink (bytes : List Byte) : State :=
  State.reset.setLink 0 (ringWrite Config.default bytes (Link.reset Config.default)).1

/-- V40.11. -/
theorem test_scanStart :
    after State.scan (.scanStart [0x05, 0x00] 100) State.reset
      = some ⟨[true, false, true] ++ List.replicate 13 false, List.replicate 16 0, true, false, 100⟩ := by decide
/-- V40.10. -/
theorem test_scanStart_again : refusal (.scanStart [0, 0] 0) (running healthy) = some .scanAlreadyStarted := by decide
/-- V40.1, third tick: the change is committed. -/
theorem test_scanTick_change :
    after (fun t => (t.events, t.cnt 0)) (.scanTick [0x01, 0x00] 10)
        { State.reset with scan := ⟨List.replicate 16 false, 2 :: List.replicate 15 0, true, false, 0⟩ }
      = some ([.change 0 true], 0) := by decide
/-- V41.12: the latch-error line. -/
theorem test_scanTick_latchError :
    after (fun t => (t.events, t.safety, t.latchQ, t.logq)) (.scanTick [0xFF, 0x2B] 10) (running (healthy.set 13 true))
      = some ([.latchSeq .fault, .rule .latchError .activate], ⟨false, true, true⟩, [false, false],
          [⟨3, 0, latchError⟩]) := by decide
/-- V42.1: 60.25 degrees trips. -/
theorem test_thermalSample_trip :
    after (fun t => (t.events, t.thermal.tripTemp, t.safety)) (.thermalSample 241 0 0) State.reset
      = some ([.thermalTrip 241], some 241, ⟨true, false, true⟩) := by decide
/-- V42.1: 58.0 degrees stays. -/
theorem test_thermalSample_stays :
    after (fun t => t.thermal.fault) (.thermalSample 232 0 0)
      { State.reset with thermal := ⟨true, some 241, false, none⟩ } = some true := by decide
/-- V42.5. -/
theorem test_setBypass_enter : after State.events (.setBypass true) State.reset = some [.bypass .enter] := by decide
/-- V42.7. -/
theorem test_setBypass_same : after State.events (.setBypass false) State.reset = some [] := by decide
/-- V43.2, across the wrap: 49 ms is ignored. -/
theorem test_btnEdge_ignored :
    after State.signals (.btnEdge 0x21) { State.reset with signals := ⟨false, false, true, 0xFFFFFFF0⟩ }
      = some ⟨false, false, true, 0xFFFFFFF0⟩ := by decide
/-- V43.2: 50 ms is accepted. -/
theorem test_btnEdge_accepted :
    after State.signals (.btnEdge 0x22) { State.reset with signals := ⟨false, false, true, 0xFFFFFFF0⟩ }
      = some ⟨true, false, true, 0x22⟩ := by decide
theorem test_reqReset : after State.signals .reqReset State.reset = some ⟨true, false, false, 0⟩ := by decide
theorem test_reqForce : after State.signals .reqForce State.reset = some ⟨false, true, false, 0⟩ := by decide
/-- V43.4. -/
theorem test_doReset :
    after (fun t => (t.safety, t.latchQ, t.events)) .doReset
        { State.reset with signals := ⟨true, false, false, 0⟩, safety := ⟨true, true, true⟩ }
      = some (⟨false, false, false⟩, [true, true], [.latchSeq .rearm]) := by decide
/-- V43.5. -/
theorem test_doForce :
    after (fun t => (t.safety, t.latchQ, t.events, t.logq)) .doForce
        { State.reset with signals := ⟨false, true, false, 0⟩, latchQ := [true, true] }
      = some (⟨true, true, true⟩, [false, false], [.latchSeq .fault], []) := by decide
/-- V43.7. -/
theorem test_doForce_refused : refusal .doForce State.reset = some .noPendingForce := by decide
/-- V44.3: the head wraps. -/
theorem test_rbPut_wrap :
    after (fun t => t.links.map fun l => (l.rbHead, l.rbBuf)) (.rbPut 0 0x22)
        (State.reset.setLink 0 { Link.reset Config.default with rbHead := 65535, rbTail := 65530 })
      = some [(0, [0, 0, 0, 0, 0, 0, 0, 0x22])] := by decide
/-- V44.4: the tail wraps. -/
theorem test_rbGet_wrap :
    after (fun t => (t.result, t.links.map (·.rbTail))) (.rbGet 0)
        (State.reset.setLink 0 { Link.reset Config.default with
          rbHead := 2, rbTail := 65535, rbBuf := [10, 11, 12, 13, 14, 15, 16, 17] })
      = some (.byte (some 17), [0]) := by decide
/-- V44.5: two of three fit. -/
theorem test_rbWrite_partial :
    after (fun t => (t.result, t.links.map fun l => ringContents t.cfg l)) (.rbWrite 0 [1, 2, 3])
        (queuedLink [9, 9, 9, 9, 9, 9])
      = some (.count 2, [[9, 9, 9, 9, 9, 9, 1, 2]]) := by decide
/-- V45.5: a second START byte is taken as the command. -/
theorem test_fpFeed_badCmd :
    after (fun t => (t.result, t.links.map (·.fpState))) (.fpFeed 0 0xAA)
        (State.reset.setLink 0 { Link.reset Config.default with fpState := .waitLen, fpIdx := 1 })
      = some (.frame none, [.waitStart]) := by decide
/-- V45.1, last byte. -/
theorem test_fpFeed_frame :
    after State.result (.fpFeed 0 0x55) (State.reset.setLink 0 { Link.reset Config.default with
        fpState := .accum, fpIdx := 5, fpExpected := 6, fpBuf := [0xAA, 0x02, 0x04, 0x34, 0x12, 0, 0, 0] })
      = some (.frame (some ⟨0x02, 4, true, 0x1234⟩)) := by decide
/-- V46.6: the ninth byte is lost. -/
theorem test_ldRxByte_overrun :
    after (fun t => t.links.map fun l => (ringContents t.cfg l, l.rxNotify)) (.ldRxByte 0 0x06)
        (queuedLink [0xAA, 0x02, 0x04, 0x34, 0x12, 0x55, 0xAA, 0x01])
      = some [([0xAA, 0x02, 0x04, 0x34, 0x12, 0x55, 0xAA, 0x01], true)] := by decide
/-- V46.6: the poll after it. -/
theorem test_ldPoll :
    after (fun t => (t.events, t.links.map fun l => (ringCount l, l.fpState, l.fpIdx, l.fpExpected))) (.ldPoll 0)
        (queuedLink [0xAA, 0x02, 0x04, 0x34, 0x12, 0x55, 0xAA, 0x01])
      = some ([.frameRx ⟨0x02, 4, true, 0x1234⟩], [(0, .accum, 2, 4)]) := by decide
/-- V46.3, at a slave. -/
theorem test_frameReadReq :
    after State.events (.frameReadReq 0 6) State.reset = some [.frameRx ⟨0x01, 6, false, 0⟩] := by decide
/-- V45.8: a slave's READ request at a master is not delivered. -/
theorem test_frameReadReq_master :
    after (fun t => (t.events, t.links.map (·.fpIdx))) (.frameReadReq 0 6) masterLink = some ([], [4]) := by decide
/-- V46.2, at a master. -/
theorem test_frameReadReply :
    after State.events (.frameReadReply 0 6 0x192F) masterLink
      = some [.frameRx ⟨0x01, 6, true, 0x192F⟩, .readDataRx 6 0x192F] := by decide
/-- V46.3. -/
theorem test_frameWrite :
    after State.events (.frameWrite 0 4 0x1234) State.reset = some [.frameRx ⟨0x02, 4, true, 0x1234⟩] := by decide
/-- V46.1. -/
theorem test_frameAck :
    after State.events (.frameAck 0 1 5) masterLink = some [.frameRx ⟨0x06, 1, true, 5⟩, .ackRx 1 5] := by decide
/-- V46.8. -/
theorem test_ldWriteU16_timeout :
    after (fun t => (t.result, t.events)) (.ldWriteU16 0 4 0x1234) { State.reset with draws := ⟨[], [.timeout], [], 0⟩ }
      = some (.sent .timeout, [.tx [0xAA, 0x02, 0x04, 0x34, 0x12, 0x55] .timeout, .ioError .txTimeout]) := by decide
/-- V46.7. -/
theorem test_ldReadU16 :
    after State.events (.ldReadU16 0 6) { State.reset with draws := ⟨[], [.ok], [], 0⟩ }
      = some [.tx [0xAA, 0x01, 0x06, 0x55] .ok] := by decide
/-- V46.7: a slave's reply. -/
theorem test_ldSend :
    after State.events (.ldSend 0 0x01 6 true 0x192F) { State.reset with draws := ⟨[], [.ok], [], 0⟩ }
      = some [.tx [0xAA, 0x01, 0x06, 0x2F, 0x19, 0x55] .ok] := by decide
/-- V46.9. -/
theorem test_ldSend_refused : refusal (.ldSend 0 0x02 6 false 0) State.reset = some .notASendableFrame := by decide
/-- V47.3 in small: slot 0 VALID with seq 5, the rest erased. -/
theorem test_flInit :
    after State.flash .flInit { logged [(0, 5), (1, 0), (2, 0), (3, 0), (32, 0x7E)] 3 0 with
        flash := ⟨false, 0, 0, .fail, .idle⟩ }
      = some ⟨true, 1, 6, .ok, .idle⟩ := by decide
/-- V47.16: a failed read leaves the log uninitialised. -/
theorem test_flInit_fail :
    after (fun t => (t.flash.inited, t.flash.status, t.events)) .flInit
        { State.resetWith tiny with draws := ⟨[.fail], [], [], 0⟩ }
      = some (false, .fail, [.ioError .nvmRead]) := by decide
/-- V47.2: the transactions of the first append. -/
theorem test_flAppend :
    after (fun t => (t.nvmOps, t.flash)) (.flAppend 3 0 latchError 123456) (logged [] 0 1)
      = some ([.erase 0 .ok,
          .program 0 ([0x01, 0x00, 0x00, 0x00, 0x40, 0xE2, 0x01, 0x00, 0x03, 0x00, 0x00, 0x00] ++ latchError
            ++ List.replicate 9 0) .ok,
          .program 32 [0x7E] .ok], ⟨true, 1, 2, .ok, .idle⟩) := by decide
/-- V47.14 and V47.5 in small: the sequence number and the cursor wrap. -/
theorem test_flAppend_wraps :
    after State.flash (.flAppend 0 0 [] 0) (logged [] 3 0xFFFFFFFF) = some ⟨true, 0, 0, .ok, .idle⟩ := by decide
/-- V47.13: the newest record only. -/
theorem test_flReadLastN :
    after State.result (.flReadLastN 5 1) (logged [(0, 9), (32, 0x7E), (33, 10), (65, 0x7E)] 2 11)
      = some (.records .ok [⟨0xFFFFFF0A, 0xFFFFFFFF, 0xFFFF, 0xFFFF, List.replicate 20 0xFF⟩]) := by decide
/-- V47.15 in small: GARBAGE is not counted. -/
theorem test_flCountValid :
    after State.result .flCountValid (logged [(32, 0x7E), (65, 0x3C), (98, 0x7E)] 3 1)
      = some (.validCount .ok (some 2)) := by decide
/-- V47.17, the append failing: the request is gone. -/
theorem test_logWrite :
    after (fun t => (t.logq, t.flash.status, t.flash.cursor)) (.logWrite 7102)
        { logged [] 1 6 with logq := [⟨3, 0, latchError⟩], draws := ⟨[.fail], [], [none], 0⟩ }
      = some ([], .fail, 1) := by decide
/-- V47.16. -/
theorem test_logWrite_refused : refusal (.logWrite 0) State.reset = some .logNotInitialised := by decide
/-- V48.2, the listed bits. -/
theorem test_swRead_bits :
    let s := { running healthy with
      active := ⟨false, true, true, false, false⟩, thermal := ⟨true, none, false, some ⟨244, false, false, false, true, 0⟩⟩ }
    debugBits s = 0x0FB0 ∧ activeBits s = 0x001F ∧ tempByte s = 0x3D := by decide
/-- V48.6. -/
theorem test_swRead_refused : refusal (.swRead 5) (running healthy) = some .variableNotBuilt := by decide
/-- V60.1. -/
theorem test_coldReset :
    after (fun t => (t.safety, t.scan.started, t.nvm, t.events)) .coldReset
        { running healthy with nvm := [(7, 0)], events := [.thermalClear], safety := ⟨true, true, true⟩ }
      = some (⟨false, false, false⟩, false, [(7, 0)], [.thermalClear]) := by decide
/-- V60.2. -/
theorem test_powerLoss :
    after (fun t => (t.logq, t.signals, t.links.map fun l => (ringCount l, l.fpState))) .powerLoss
        { queuedLink [1, 2, 3] with logq := [⟨3, 0, []⟩], signals := ⟨true, false, false, 0⟩ }
      = some ([], ⟨false, false, false, 0⟩, [(0, .waitStart)]) := by decide
theorem test_logRecord : refusal (.logRecord 0 0 0 0 [] 0) State.reset = some .foreignRecord := by decide

/-! ## The step -/

/-- What one field of the state is after one step. -/
def stepped {α : Type} (f : State → α) (s : State) : Option α :=
  match step s with
  | .next t => some (f t)
  | _ => none

theorem test_step_takes_input :
    stepped (fun t => (t.signals, t.inbox)) (State.reset.withFetchWord 8 0x06)
      = some (⟨true, false, false, 0⟩, []) := by decide +kernel
theorem test_step_refuses :
    step { State.reset with inbox := [⟨.command, [0x7E]⟩] } = .refused (.undecodable (.unknownOpcode 0x7E)) := rfl

/-! ## Witnesses: for each statement with hypotheses, a state and operands that meet them, each clause at a boundary -/

/-- The base state with an inbox. -/
def given (x : Input) : State := { State.reset with inbox := [x] }

/-- A button edge at 99, after an operation at `last` and an accepted edge at `edge`. -/
def edgeAfter (last edge : Word) : State :=
  { given ⟨.command, [0x05, 0x63, 0x00, 0x00, 0x00]⟩ with
    lastNow := some last, signals := ⟨false, false, true, edge⟩ }

theorem witness_StepRunsDecodedInstruction :
    ((edgeAfter 99 99).inbox = ⟨.command, [0x05, 0x63, 0x00, 0x00, 0x00]⟩ :: []
      ∧ word [0x05, 0x63, 0x00, 0x00, 0x00] = .ok (.btnEdge 99) ∧ nowOf (.btnEdge 99) = some 99
      ∧ timeBaseOk (.btnEdge 99) (edgeAfter 99 99) = true
      ∧ timeBaseOk (.btnEdge 99) (edgeAfter 100 99) = false ∧ timeBaseOk (.btnEdge 99) (edgeAfter 99 2147483747) = false)
    ∧ ((given ⟨.command, [0x7E]⟩).inbox = ⟨.command, [0x7E]⟩ :: [] ∧ word [0x7E] = .error (.unknownOpcode 0x7E))
    ∧ State.reset.inbox = [] := by decide

/-- R4, U22: time going back by 1 ms is refused; the wrap of V43.2 is no going back. -/
theorem test_time_going_back :
    step (edgeAfter 100 0) = .refused .timeBaseBroken
    ∧ goesBack 0x00000022 0xFFFFFFF0 = false := ⟨rfl, by decide⟩

/-- R175, R197, R200: a tick compares with `t_start` until ready, then with the timers that run under the snapshot. -/
theorem test_times_a_tick_compares :
    timesCompared (.scanTick [0x7F, 0x0B] 0) { running healthy with
      rules := ⟨true, 7, false, true, 8, false, false⟩, scan := { (running healthy).scan with tStart := 5 } } = [7, 8]
    ∧ timesCompared (.scanTick [0xFF, 0x0B] 2999) { running healthy with
      rules := ⟨true, 7, false, true, 8, false, false⟩
      scan := { (running healthy).scan with systemReady := false, tStart := 5 } } = [5] := by decide

/-- R128: a byte at a UART that begins no frame is discarded, and one step does it. -/
theorem test_noise_is_discarded :
    stepped (fun t => t.links.map fun l => (l.rbTail, l.fpState)) (given ⟨.uart 0, [0x11]⟩)
      = some [(1, .waitStart)] := by decide

theorem witness_MalformedOperationWordIsRefused :
    (given ⟨.command, [0x7E]⟩).inbox = ⟨.command, [0x7E]⟩ :: []
    ∧ ∀ i : Instr, i.wellFormed State.reset.cfg = true → i.port = .command → encodeBytes State.reset.cfg i ≠ [0x7E] := by
  refine ⟨rfl, ?_⟩
  intro i _ hp h
  cases i <;> simp [encodeBytes, Instr.port, le16, le32] at h hp

theorem witness_EncodedInstructionDecodesBack :
    Config.default.wf = true ∧ (Instr.flAppend 3 0x8000 latchError 0xFFFFFFFF).wellFormed Config.default = true
    ∧ (Instr.frameAck 0 0xFF 0x8000).wellFormed Config.default = true
    ∧ (Instr.logRecord 1 2 3 4 (List.replicate 20 0) 0x7E).wellFormed Config.default = true := by decide

theorem witness_DecodedInputEncodesBack :
    word [0x04, 0x01] = .ok (.setBypass true) ∧ wire [0xAA, 0x01, 0xFF, 0x55] = .ok (.frameReadReq 0 0xFF) := by decide

theorem witness_ResetGivesResetTable :
    (Instr.coldReset = .coldReset ∨ Instr.coldReset = .powerLoss)
    ∧ (Instr.powerLoss = .coldReset ∨ Instr.powerLoss = .powerLoss) := by decide

theorem witness_ScanStartTakesFirstRead :
    State.reset.scan.started = false ∧ (running healthy).scan.started = true := by decide

theorem witness_ScanOrderIsEnforced :
    State.reset.scan.started = false ∧ (running healthy).scan.started = true := by decide

/-- Inputs 0, 1 and 15 disagree with the sample `06 80` below in the three ways. -/
def counting : State :=
  { State.reset with scan := ⟨List.replicate 16 false, [0, 1] ++ List.replicate 13 0 ++ [2], true, false, 0⟩ }

theorem witness_ScanTickDebouncesEveryInput :
    counting.scan.started = true ∧ 15 < counting.cfg.nin
    ∧ rawBit [0x06, 0x80] 0 = counting.st 0
    ∧ (rawBit [0x06, 0x80] 1 ≠ counting.st 1 ∧ counting.cnt 1 + 1 ≠ counting.cfg.debounceN)
    ∧ (rawBit [0x06, 0x80] 15 ≠ counting.st 15 ∧ counting.cnt 15 + 1 = counting.cfg.debounceN) := by decide

theorem witness_ScanTickIsSuppressedUntilReady :
    counting.scan.started = true
    ∧ after (·.scan.systemReady) (.scanTick [0x06, 0x80] 2999) counting = some false
    ∧ after (·.scan.systemReady) (.scanTick [0x06, 0x80] 3000) counting = some true := by decide

/-- Input 0 on at every second sample. -/
def alternating : List (List Byte × Word) :=
  [([1, 0], 10), ([0, 0], 20), ([1, 0], 30), ([0, 0], 40), ([1, 0], 50), ([0, 0], 60)]

/-- Input 0 held on for DEBOUNCE_N samples. -/
def held : List (List Byte × Word) := [([1, 0], 10), ([1, 0], 20), ([1, 0], 30)]

theorem witness_DebounceLaw :
    counting.scan.started = true ∧ 0 < counting.cfg.nin ∧ counting.cnt 0 = 0 ∧ 0 < counting.cfg.debounceN
    ∧ (∀ a w b, alternating = a ++ w ++ b → w.length = counting.cfg.debounceN →
        ∃ x ∈ w, rawBit x.1 0 = counting.st 0)
    ∧ (true ≠ counting.st 0 ∧ (∀ x ∈ held, rawBit x.1 0 = true) ∧ counting.cfg.debounceN ≤ held.length) := by
  refine ⟨by decide, by decide, by decide, by decide, ?_, by decide⟩
  intro a w b h hl
  have hw : w = (alternating.drop a.length).take 3 := by
    have h3 : w.length = 3 := hl
    rw [h, List.append_assoc, List.drop_left, ← h3, List.take_left]
  have hb : a.length < 4 := by
    have := congrArg List.length h
    have h3 : w.length = 3 := hl
    simp only [List.length_append] at this
    have h6 : alternating.length = 6 := rfl
    omega
  rw [hw]
  generalize a.length = n at hb
  revert n
  decide

/-- Rule 1 unarmed since 2000, the relays off. -/
def arming (disarmOnAny : Bool) (st : List Bool) : State :=
  { running st with
    cfg   := { Config.default with r1DisarmOnAny := disarmOnAny }
    rules := ⟨true, 2000, false, false, 0, false, false⟩ }

/-- Rule 1 armed. -/
def armed (disarmOnAny : Bool) (st : List Bool) : State :=
  { arming disarmOnAny st with rules := ⟨true, 2000, true, false, 0, false, false⟩ }

theorem witness_RuleOneDoorRequiresRelays :
    (arming true healthy).scan.started = true ∧ (arming true healthy).scan.systemReady = true
    ∧ after (fun t => all4 t) (.scanTick [0xFE, 0x0B] 10) (arming true (healthy.set 0 false)) = some false
    ∧ after (fun t => (t.st inDoor, all4 t)) (.scanTick [0xFD, 0x0B] 10) (arming false (healthy.set 1 false))
        = some (true, false)
    ∧ after (fun t => (all4 t, t.rules.r1Armed, t.active.doorRelay)) (.scanTick [0xDF, 0x0B] 2999)
        (arming true (healthy.set 5 false)) = some (true, false, false)
    ∧ after (fun t => (all4 t, t.rules.r1Armed, t.active.doorRelay)) (.scanTick [0xDF, 0x0B] 3000)
        (arming true (healthy.set 5 false)) = some (true, true, true)
    ∧ after (fun t => (t.st inDoor, t.active.doorRelay)) (.scanTick [0xCD, 0x0B] 10)
        (armed false (((healthy.set 1 false).set 4 false).set 5 false)) = some (true, true)
    ∧ after (fun t => (all4 t, t.active.doorRelay)) (.scanTick [0xFF, 0x0B] 10) (armed true healthy)
        = some (true, false) := by decide

/-- The door open, the relays off. -/
def doorOpen : State := running (((healthy.set 0 false).set 4 false).set 5 false)

theorem witness_RuleOneNeverFaultsWithSafetiesOff :
    doorOpen.scan.started = true ∧ doorOpen.rules.r1Armed = false ∧ doorOpen.active.doorRelay = false
    ∧ ∀ a b u, [(([0xCE, 0x0B] : List Byte), (10 : Word))] = a ++ b → a ≠ [] →
        execAll (scanTicks a) doorOpen = .next u → u.scan.systemReady = true →
        (u.st inDoor && u.st inEstop && u.st inKey && u.st inBdo) = false := by
  refine ⟨by decide, by decide, by decide, ?_⟩
  intro a b u hab hne h _
  have ha : a = [([0xCE, 0x0B], 10)] := by
    cases a with
    | nil => exact absurd rfl hne
    | cons x xs =>
      simp only [List.cons_append, List.cons.injEq] at hab
      obtain ⟨rfl, hab⟩ := hab
      rw [(List.append_eq_nil_iff.1 hab.symm).1]
  subst ha
  have hx : after (fun t => t.st inDoor && t.st inEstop && t.st inKey && t.st inBdo) (.scanTick [0xCE, 0x0B] 10) doorOpen
      = some false := by decide
  unfold after at hx
  simp only [scanTicks, List.map_cons, List.map_nil, execAll] at h
  split at h
  · rename_i t ht
    rw [ht] at hx
    simp only [Host.Outcome.next.injEq, Option.some.injEq] at h hx
    rw [← h]
    exact hx
  · cases h
  · cases h

/-- Rule 2 settling since 7000. -/
def settling (st : List Bool) : State := { running st with rules := ⟨false, 0, false, true, 7000, false, false⟩ }

theorem witness_RuleTwoRelayContactsMatch :
    (settling healthy).scan.started = true ∧ (settling healthy).scan.systemReady = true
    ∧ after (fun t => all4 t && bothRelays t) (.scanTick [0xEF, 0x0B] 7050) (settling (healthy.set 4 false)) = some false
    ∧ after (fun t => (all4 t && bothRelays t, t.active.contacts)) (.scanTick [0xFF, 0x09] 7049)
        (settling (healthy.set 9 false)) = some (true, false)
    ∧ after (fun t => (all4 t && bothRelays t, t.active.contacts)) (.scanTick [0xFF, 0x09] 7050)
        (settling (healthy.set 9 false)) = some (true, true) := by decide

theorem witness_RuleThreeLatchError :
    (running healthy).scan.started = true ∧ (running healthy).scan.systemReady = true
    ∧ ((running (healthy.set 14 true)).st (9 + 2 * 2 + 1) = true
        ∧ (running (healthy.set 14 true)).safety.faultLatched = false)
    ∧ ((running healthy).safety.forceError = false ∧ latchErrLine (running healthy) = false)
    ∧ ({ running healthy with safety := ⟨true, true, true⟩ } : State).safety.faultLatched = true := by decide

theorem witness_RuleFourPowerGood :
    (running (healthy.set 7 false)).scan.started = true ∧ (running (healthy.set 7 false)).scan.systemReady = true
    ∧ after (fun t => t.active.powerGood) (.scanTick [0x7F, 0x0B] 10) (running (healthy.set 7 false)) = some true
    ∧ (running (healthy.set 7 false)).rules.r4Last = false := by decide

theorem witness_RuleFiveTemperatureSafe :
    let s : State := { running healthy with thermal := ⟨true, none, false, none⟩ }
    s.scan.started = true ∧ s.scan.systemReady = true ∧ s.thermal.bypass = false ∧ s.thermal.fault = true := by decide

/-- Not yet ready, with a grace that elapses at 3000. -/
theorem witness_RuleEventsAreEdgesInRuleOrder :
    counting.scan.started = true
    ∧ (counting.scan.systemReady = true ∨ counting.cfg.readyMs ≤ elapsed 3000 counting.scan.tStart) := by decide

theorem witness_ScanTickFrame :
    (running healthy).scan.started = true
    ∧ ((running healthy).scan.systemReady = true
        ∨ (running healthy).cfg.readyMs ≤ elapsed 0 (running healthy).scan.tStart) := by decide

theorem witness_ResetDuringPowerFaultLeavesLaserOn :
    let s : State := { running ((healthy.set 0 false).set 7 false) with
      rules   := ⟨false, 0, false, false, 0, false, true⟩
      active  := ⟨false, false, false, true, false⟩
      signals := ⟨true, false, false, 0⟩ }
    s.scan.started = true ∧ s.scan.systemReady = true ∧ s.signals.resetPending = true ∧ s.rules.r4Last = true
    ∧ s.active.powerGood = true ∧ s.st inV24 = false
    ∧ (∀ j < s.cfg.nLatchErr, s.st (9 + 2 * s.cfg.nContact + j) = false) ∧ s.st inDoor = false ∧ inV24 < s.cfg.nin
    ∧ ∀ x ∈ [(([0x7E, 0x0B] : List Byte), (10 : Word))], ∀ i < s.cfg.nin, rawBit x.1 i = s.st i := by decide

theorem witness_ThermalSampleRunsHysteresis :
    let ok : State := State.reset
    let hot : State := { State.reset with thermal := ⟨true, none, false, none⟩ }
    let quiet : State := { State.reset with thermal := ⟨false, none, true, none⟩ }
    publishOnly quiet = true ∧ publishOnly ok = false ∧ publishOnly hot = false
    ∧ tripCond ok.cfg 241 0 = true ∧ tripCond ok.cfg 240 0 = false ∧ tripCond ok.cfg 39 0 = true
    ∧ tripCond ok.cfg 100 4 = true ∧ clearCond hot.cfg 231 0 = true ∧ clearCond hot.cfg 232 0 = false
    ∧ clearCond hot.cfg 49 0 = true ∧ clearCond hot.cfg 48 0 = false := by decide

theorem witness_ThermalHysteresisLaw :
    State.reset.cfg.tLowTrip ≤ State.reset.cfg.tLowClear ∧ State.reset.cfg.tHighClear ≤ State.reset.cfg.tHighTrip
    ∧ State.reset.thermal.bypass = false
    ∧ (State.reset.cfg.thermalGatedByReady = false ∨ State.reset.scan.systemReady = true)
    ∧ ∀ x ∈ ([(241, 0, 0), (236, 0, 0)] : List (Half × Byte × Word)),
        x.2.1.getLsbD 0 = false ∧ x.2.1.getLsbD 1 = false ∧ x.2.1.getLsbD 2 = false := by
  refine ⟨by decide, by decide, by decide, by decide, ?_⟩
  simp

theorem witness_SetBypassReportsEdges :
    true ≠ State.reset.thermal.bypass ∧ false = State.reset.thermal.bypass := by decide

theorem witness_ButtonEdgeIsDebounced :
    let s : State := { State.reset with signals := ⟨false, false, true, 1000⟩ }
    State.reset.signals.btnSeen = false
    ∧ s.cfg.btnDebounceMs ≤ ((1050 : Word) - s.signals.btnLastMs).toNat
    ∧ s.signals.btnSeen = true ∧ ((1049 : Word) - s.signals.btnLastMs).toNat < s.cfg.btnDebounceMs := by decide

theorem witness_SignalsAreNotCountedNorOrdered :
    let s : State := { State.reset with signals := ⟨true, true, false, 0⟩ }
    s.signals.resetPending = true ∧ s.signals.forcePending = true := by decide

theorem witness_DoResetRearms :
    ({ State.reset with signals := ⟨true, false, false, 0⟩ } : State).signals.resetPending = true
    ∧ State.reset.signals.resetPending = false := by decide

theorem witness_DoForceFaults :
    ({ State.reset with signals := ⟨false, true, false, 0⟩ } : State).signals.forcePending = true
    ∧ State.reset.signals.forcePending = false := by decide

/-- A link whose ring buffer is full, its head at the top of the counter. -/
def fullLink : Link := { Link.reset Config.default with rbHead := 3, rbTail := 65531 }

/-- One byte short of full. -/
def nearlyFull : Link := { Link.reset Config.default with rbHead := 2, rbTail := 65531 }

theorem witness_RbPutQueuesOneByte :
    Config.default.wf = true ∧ (State.reset.setLink 0 fullLink).links[(0 : Byte).toNat]? = some fullLink
    ∧ (fullLink.rbBuf.length = Config.default.rbN ∧ ringCount fullLink = Config.default.rbN)
    ∧ (State.reset.setLink 0 nearlyFull).links[(0 : Byte).toNat]? = some nearlyFull
    ∧ (nearlyFull.rbBuf.length = Config.default.rbN ∧ ringCount nearlyFull + 1 = Config.default.rbN)
    ∧ (fullLink.user = none ∧ nearlyFull.user = none) := by decide

theorem witness_RbGetTakesOldestByte :
    State.reset.links[(0 : Byte).toNat]? = some (Link.reset Config.default)
    ∧ ringOk Config.default (Link.reset Config.default) ∧ ringCount (Link.reset Config.default) = 0
    ∧ ringOk Config.default fullLink ∧ ringCount fullLink ≠ 0
    ∧ (Link.reset Config.default).user = none ∧ fullLink.user = none := by
  unfold ringOk
  decide

theorem witness_RbWriteQueuesWhatFits :
    Config.default.wf = true ∧ (State.reset.setLink 0 nearlyFull).links[(0 : Byte).toNat]? = some nearlyFull
    ∧ ringOk Config.default nearlyFull ∧ (nearlyFull.user = none ∨ nearlyFull.user = some .direct) := by
  unfold ringOk
  decide

theorem witness_RingIsFifo :
    Config.default.wf = true ∧ State.reset.links[(0 : Byte).toNat]? = some (Link.reset Config.default)
    ∧ ringOk Config.default (Link.reset Config.default)
    ∧ (Link.reset Config.default).user = none
    ∧ (ringTrace 0 [.put 1, .get, .get, .put 2] State.reset).map (fun r => (r.1, r.2.1)) = some ([1, 2], [1]) := by
  unfold ringOk
  decide

theorem witness_SecondAgentIsRefused :
    let l : Link := { Link.reset Config.default with user := some .driver }
    let l' : Link := { Link.reset Config.default with user := some .direct }
    (State.reset.setLink 0 l).links[(0 : Byte).toNat]? = some l
    ∧ (State.reset.setLink 0 l').links[(0 : Byte).toNat]? = some l' := by decide

theorem witness_FpFeedFollowsStateMachine :
    let c := Config.default
    let w : Link := { Link.reset c with fpState := .waitLen, fpIdx := 1 }
    let a : Link := { Link.reset c with fpState := .accum, fpIdx := 4, fpExpected := 6 }
    let z : Link := { a with fpIdx := 5 }
    State.reset.links[(0 : Byte).toNat]? = some (Link.reset c)
    ∧ ((Link.reset c).fpState = .waitStart ∧ (0x55 : Byte) ≠ c.frameStart ∧ (0xAA : Byte) = c.frameStart)
    ∧ (w.fpState = .waitLen ∧ frameLen c .slave 0x03 = 0 ∧ frameLen c .slave 0x02 ≠ 0 ∧ frameLen c .slave 0x02 ≤ c.fpBufLen)
    ∧ (a.fpState = .accum ∧ a.fpIdx + 1 < a.fpExpected)
    ∧ (z.fpExpected ≤ z.fpIdx + 1 ∧ (z.fpBuf.set z.fpIdx 0x54).getD (z.fpExpected - 1) 0 ≠ c.frameEnd
        ∧ (z.fpBuf.set z.fpIdx 0x55).getD (z.fpExpected - 1) 0 = c.frameEnd) := by decide

/-- A WRITE frame; the READ request of a slave is the frame without a value. -/
theorem witness_WellFormedFrameParses :
    let l := Link.reset Config.default
    State.reset.links[(0 : Byte).toNat]? = some l ∧ l.fpState = .waitStart
    ∧ l.fpBuf.length = State.reset.cfg.fpBufLen
    ∧ frameLen State.reset.cfg (roleOf State.reset.cfg 0) 0x02 = 6 ∧ 6 ≤ State.reset.cfg.fpBufLen
    ∧ frameLen State.reset.cfg (roleOf State.reset.cfg 0) 0x01 = 4
    ∧ (0x54 : Byte) ≠ State.reset.cfg.frameEnd ∧ ∀ b ∈ ([0x00, 0x55, 0x13] : List Byte), b ≠ State.reset.cfg.frameStart := by
  decide

theorem witness_RxByteIsQueued :
    Config.default.wf = true ∧ ringOk Config.default fullLink ∧ ringOk Config.default nearlyFull
    ∧ (fullLink.user = none ∨ fullLink.user = some .driver)
    ∧ ringCount fullLink = Config.default.rbN ∧ ringCount nearlyFull ≠ Config.default.rbN
    ∧ (State.reset.setLink 0 fullLink).links[(0 : Byte).toNat]? = some fullLink
    ∧ (State.reset.setLink 0 nearlyFull).links[(0 : Byte).toNat]? = some nearlyFull := by
  unfold ringOk
  decide

theorem witness_PollDrainsAndDispatches :
    Config.default.wf = true ∧ (State.reset.setLink 0 fullLink).links[(0 : Byte).toNat]? = some fullLink
    ∧ ringOk Config.default fullLink ∧ (fullLink.user = none ∨ fullLink.user = some .driver) := by
  unfold ringOk
  decide

theorem witness_FrameIsItsBytesThenPoll :
    (State.reset.setLink 0 nearlyFull).links[(0 : Byte).toNat]? = some nearlyFull
    ∧ (nearlyFull.user = none ∨ nearlyFull.user = some .driver)
    ∧ (given ⟨.uart 0, [0xAA, 0x03]⟩).inbox = ⟨.uart 0, [0xAA, 0x03]⟩ :: []
    ∧ wire [0xAA, 0x03] = .error .notAFrame
    ∧ (given ⟨.uart 0, [0xAA, 0x03]⟩).links[(0 : Byte).toNat]? = some (Link.reset Config.default) := by decide

theorem witness_FramesAreDelivered :
    let l := Link.reset Config.default
    State.reset.cfg.wf = true ∧ State.reset.links[(0 : Byte).toNat]? = some l ∧ l.user = none
    ∧ ringOk State.reset.cfg l ∧ ringCount l = 0 ∧ l.fpState = .waitStart ∧ l.fpBuf.length = State.reset.cfg.fpBufLen
    ∧ 6 ≤ State.reset.cfg.fpBufLen ∧ 6 ≤ State.reset.cfg.rbN
    ∧ roleOf State.reset.cfg 0 = .slave ∧ roleOf masterLink.cfg 0 = .master := by
  unfold ringOk
  decide

theorem witness_SendTransmitsOneFrame :
    let ok : State := { State.reset with draws := ⟨[], [.ok], [], 0⟩ }
    let late : State := { State.reset with draws := ⟨[], [.timeout], [], 0⟩ }
    ok.links[(0 : Byte).toNat]? = some (Link.reset Config.default) ∧ ok.draws.txAnswer = .ok
    ∧ late.draws.txAnswer = .timeout ∧ ((0x06 : Byte) = ok.cfg.cmdAck ∧ (0x01 : Byte) = ok.cfg.cmdRead)
    ∧ ¬(((0x02 : Byte) = ok.cfg.cmdWrite ∨ (0x02 : Byte) = ok.cfg.cmdAck) ∧ false = true ∨ (0x02 : Byte) = ok.cfg.cmdRead) := by
  decide

theorem witness_WriteAndReadU16AreSends :
    State.reset.links[(0 : Byte).toNat]? = some (Link.reset Config.default) := by decide

/-- Two links, the second at the top of the list. -/
def twoLinks : State := State.resetWith { Config.default with roles := [.master, .slave] }

theorem witness_LinksAreIndependent :
    (Instr.rbPut 1 0x41).link? = some 1 ∧ after (·.result) (.rbPut 1 0x41) twoLinks = some (.accepted true)
    ∧ ([fullLink, Link.reset twoLinks.cfg] : List Link)[(1 : Byte).toNat]? = twoLinks.links[(1 : Byte).toNat]?
    ∧ 0 ≠ (1 : Byte).toNat := by decide

theorem witness_InitRecoversCursorAndSequence :
    (logged [] 0 1).cfg.wf = true ∧ nvmAllOk (2 * capacity (logged [] 0 1).cfg) (logged [] 0 1).draws
    ∧ after (·.flash.status) .flInit (logged [] 0 1) = some .ok
    ∧ after (·.flash.status) .flInit { State.resetWith tiny with draws := ⟨[.fail], [], [], 0⟩ } = some .fail := by
  unfold nvmAllOk
  decide

theorem witness_AppendWritesOneRecord :
    let s := logged [(32, 0x7E)] 1 2
    let z := logged [] 2 3
    (s.nvm.wf ∧ s.flash.inited = true ∧ s.flash.cursor < capacity s.cfg ∧ uncut s
      ∧ nvmAllOk (appendCount s.cfg s.flash.cursor) s.draws.afterCut ∧ appendCount s.cfg s.flash.cursor = 2)
    ∧ (z.nvm.wf ∧ z.flash.inited = true ∧ z.flash.cursor < capacity z.cfg ∧ uncut z
      ∧ nvmAllOk (appendCount z.cfg z.flash.cursor) z.draws.afterCut ∧ appendCount z.cfg z.flash.cursor = 3) := by
  unfold uncut nvmAllOk
  decide

/-- The log of `tiny` whose NVM answers are `answers`. -/
def answering (answers : List Status) (cut : Option CutPoint) (cursor : Nat) : State :=
  { logged [] cursor 1 with draws := ⟨answers, [], [cut], 0⟩ }

theorem witness_AppendFailureKeepsCursor :
    let e := answering [.fail] none 2
    let b := answering [.fail] (some .cut1) 3
    let k := answering [.ok, .fail] none 3
    (e.nvm.wf ∧ e.flash.inited = true ∧ e.flash.cursor < capacity e.cfg ∧ uncut e
      ∧ 0 < appendCount e.cfg e.flash.cursor ∧ appendCount e.cfg e.flash.cursor = 3 ∧ nvmAllOk 0 e.draws.afterCut
      ∧ (e.draws.afterCut.afterNvms 0).nvmAnswer = .fail)
    ∧ (b.flash.cursor < capacity b.cfg ∧ uncut b ∧ 0 + 2 = appendCount b.cfg b.flash.cursor
      ∧ nvmAllOk 0 b.draws.afterCut ∧ (b.draws.afterCut.afterNvms 0).nvmAnswer = .fail)
    ∧ (k.flash.cursor < capacity k.cfg ∧ uncut k ∧ 1 + 1 = appendCount k.cfg k.flash.cursor
      ∧ nvmAllOk 1 k.draws.afterCut ∧ (k.draws.afterCut.afterNvms 1).nvmAnswer = .fail) := by
  unfold uncut nvmAllOk
  decide

theorem witness_PowerLossCutsAppend :
    let one := answering [.ok] (some .cut1) 2
    let two := answering [.ok] (some .cut2) 1
    let three := answering [.ok, .ok] (some .cut3) 1
    (one.nvm.wf ∧ one.flash.inited = true ∧ one.flash.cursor < capacity one.cfg ∧ one.draws.cutAnswer = some .cut1
      ∧ one.flash.cursor % rps one.cfg = 0 ∧ nvmAllOk 1 one.draws.afterCut)
    ∧ (two.flash.cursor < capacity two.cfg ∧ two.draws.cutAnswer = some .cut2
      ∧ nvmAllOk (appendCount two.cfg two.flash.cursor - 1) two.draws.afterCut)
    ∧ (three.flash.cursor < capacity three.cfg ∧ three.draws.cutAnswer = some .cut3
      ∧ nvmAllOk (appendCount three.cfg three.flash.cursor) three.draws.afterCut) := by
  unfold nvmAllOk
  decide

/-- Slot 0 VALID with number 1, the append at slot `cursor` cut after its body. -/
def cutAppend (cursor : Nat) (seq : Word) (commit1 : Byte) : State :=
  { logged [(0, 1), (1, 0), (2, 0), (3, 0), (32, 0x7E), (33, 2), (34, 0), (35, 0), (36, 0), (65, commit1)] cursor seq with
    draws := ⟨List.replicate 40 .ok, [], [some .cut2, none], 0⟩ }

theorem witness_InterruptedAppendIsRepeated :
    let s := cutAppend 1 2 0xFE
    let z := cutAppend 2 3 0x7E
    let f := { logged [] 0 1 with draws := ⟨List.replicate 40 .ok, [], [some .cut2, none], 0⟩ }
    ({ logged [(0, 1), (1, 0), (2, 0), (3, 0), (32, 0x7E)] 1 2 with
        draws := ⟨List.replicate 40 .ok, [], [some .cut2, none], 0⟩ } : State).slot 1 = .empty
    ∧ s.cfg.wf = true ∧ s.cfg.erased = 0xFF ∧ s.flash.inited = true ∧ s.flash.cursor < capacity s.cfg
    ∧ (z.nvm.wf ∧ (∀ j < 2, z.slot j ≠ .empty) ∧ 2 % rps z.cfg = 0 ∧ z.slot (slotBack z.cfg 2 1) = .valid
      ∧ z.flash.nextSeq = (z.record (slotBack z.cfg 2 1)).seq + 1 ∧ slotBack z.cfg 2 1 / rps z.cfg ≠ 2 / rps z.cfg
      ∧ z.draws.cutAnswer = some .cut2 ∧ nvmAllOk (appendCount z.cfg 2 - 1) z.draws.afterCut
      ∧ after (fun t => decide (t.draws.nvmAnswer = .ok)) (.flAppend 0 0 [] 0) z = some true)
    ∧ (f.nvm.wf ∧ f.flash.nextSeq = 1 ∧ (∀ j < capacity f.cfg, f.slot j ≠ .valid)
      ∧ f.draws.cutAnswer = some .cut2 ∧ nvmAllOk (appendCount f.cfg 0 - 1) f.draws.afterCut) := by
  unfold nvmAllOk
  decide

theorem witness_AppendedRecordReadsBack :
    let s := logged [] 3 9
    let z := logged [(66, 0)] 2 9
    (s.cfg.wf = true ∧ s.cfg.erased = 0xFF ∧ s.nvm.wf ∧ s.flash.inited = true ∧ s.flash.cursor < capacity s.cfg
      ∧ (∀ i < s.cfg.recordSize, s.nvm.read (slotAddr s.cfg s.flash.cursor + i) = s.cfg.erased) ∧ uncut s
      ∧ nvmAllOk (appendCount s.cfg s.flash.cursor + 1) s.draws.afterCut)
    ∧ (z.nvm.wf ∧ z.flash.cursor % rps z.cfg = 0 ∧ uncut z
      ∧ nvmAllOk (appendCount z.cfg z.flash.cursor + 1) z.draws.afterCut) := by
  unfold uncut nvmAllOk
  decide

theorem witness_OneEraseForEachSectorFilled :
    let s : State := { State.resetWith tiny with draws := ⟨List.replicate 17 .ok ++ [.fail], [], List.replicate 3 none ++ [], 0⟩ }
    s.cfg.wf = true ∧ s.nvm.wf
    ∧ (∀ a, s.cfg.logBase ≤ a → a < s.cfg.logBase + s.cfg.logSectors * s.cfg.sectorSize → s.nvm.read a = s.cfg.erased)
    ∧ 2 * capacity s.cfg + 3 * 3 ≤ 17 := by
  intro s
  refine ⟨by decide, by decide, ?_, by decide⟩
  intro a _ _
  exact (show Memory.unlisted = tiny.erased by decide)

theorem witness_LogWriteAppendsQueueHead :
    let s : State := { logged [] 3 1 with logq := [⟨3, 0, latchError⟩] }
    s.flash.inited = true ∧ s.logq = ⟨3, 0, latchError⟩ :: [] ∧ s.flash.cursor < capacity s.cfg
    ∧ (logged [] 3 1).logq = [] := by decide

theorem witness_ReadLastNWalksBackward :
    let s := logged [(32, 0x7E), (65, 0x7E)] 2 1
    s.cfg.wf = true ∧ s.flash.inited = true
    ∧ nvmAllOk (min (min (3 : Half).toNat (capacity s.cfg)) (3 : Half).toNat) s.draws
    ∧ after (fun t => match t.result with | .records st rs => (st, rs.length) | _ => (.fail, 0)) (.flReadLastN 3 3) s
        = some (.ok, 2) := by
  unfold nvmAllOk
  decide

theorem witness_CountValidCountsEverySlot :
    let s := logged [(32, 0x7E)] 1 1
    s.cfg.wf = true ∧ s.flash.inited = true ∧ nvmAllOk (capacity s.cfg) s.draws
    ∧ after (·.result) .flCountValid (answering [.ok, .fail] none 1) = some (.validCount .fail none) := by
  unfold nvmAllOk
  decide

theorem witness_LogIsRefusedBeforeInit : State.reset.flash.inited = false := by decide

theorem witness_DebugWordShowsListedBits :
    (running healthy).scan.started = true ∧ (5 : Byte) ≠ (running healthy).cfg.varStatusDebug
    ∧ (5 : Byte) ≠ (running healthy).cfg.varStatusActive := by decide

theorem witness_ActiveWordShowsListedBits :
    let s : State := { running healthy with thermal := ⟨false, none, false, some ⟨1018, false, false, false, true, 0⟩⟩ }
    s.scan.started = true ∧ s.cfg.varStatusActive ≠ s.cfg.varStatusDebug
    ∧ s.thermal.reading = some ⟨1018, false, false, false, true, 0⟩ := by decide

theorem witness_StepKeepsNvmCanonical :
    let s : State := { logged [(33, 0)] 2 1 with inbox := [⟨.command, [0x34, 0, 0, 0, 0]⟩], logq := [⟨3, 0, []⟩] }
    s.nvm.wf ∧ stepped (fun t => t.flash.cursor) s = some 3 := by decide

theorem witness_StepKeepsInvariant :
    let s := given ⟨.command, [0x01, 0x05, 0x00, 0x64, 0x00, 0x00, 0x00]⟩
    s.cfg.wf = true ∧ 2 ≤ s.cfg.fpBufLen ∧ Inv s ∧ stepped (fun t => t.scan.started) s = some true := by
  refine ⟨by decide, by decide, ?_, by decide⟩
  refine ⟨by unfold scannerOk; decide, by unfold edgeMemoryOk; decide, ⟨by decide, ?_⟩, by unfold latchedSafe; decide,
    by unfold flashOk; decide, by unfold queueOk; decide, by intro th h; cases h⟩
  intro k l h
  have hl : l = Link.reset Config.default := by
    have := List.mem_of_getElem? h
    exact (List.mem_replicate.1 this).2
  subst hl
  exact ⟨by unfold ringOk; decide, rfl, rfl, rfl⟩

theorem witness_TracesOnlyGrow :
    stepped (fun t => (t.events, t.nvmOps)) { given ⟨.command, [0x04, 0x01]⟩ with events := [.thermalClear] }
      = some ([.thermalClear, .bypass .enter], []) := by decide

theorem witness_SharingDiscipline :
    (after (·.safety) .doForce { State.reset with signals := ⟨false, true, false, 0⟩ } = some ⟨true, true, true⟩
      ∧ Instr.doForce ≠ .coldReset ∧ Instr.doForce ≠ .powerLoss ∧ agentOf .doForce = .forceHandler)
    ∧ (after (·.safety) .doReset { State.reset with signals := ⟨true, false, false, 0⟩, safety := ⟨true, true, true⟩ }
        = some ⟨false, false, false⟩ ∧ agentOf .doReset = .resetHandler)
    ∧ (after (·.flash.cursor) (.logWrite 0) { logged [] 1 1 with logq := [⟨3, 0, []⟩] } = some 2
      ∧ (logged [] 1 1).draws.cutAnswer = none ∧ agentOf (.logWrite 0) = .logWriter)
    ∧ after (fun t => t.links.map (·.rbHead)) (.ldRxByte 0 1) State.reset = some [1]
    ∧ after (fun t => t.links.map (·.rbTail)) (.ldPoll 0) (queuedLink [1]) = some [1] := by decide

end Sys2Proof.Tests
end

section
/-! What every operation keeps (rules R6, R9, R333): the configuration, and both traces as they stood. First for the
operations over the state, then for each instruction, then for one step. -/

namespace Sys2Proof.Machine

/-- `t` has the configuration of `s`, and both of its traces begin with those of `s`. -/
structure TracesExtend (s t : State) : Prop where
  cfg    : t.cfg = s.cfg
  events : s.events <+: t.events
  nvmOps : s.nvmOps <+: t.nvmOps

theorem TracesExtend.trans {s t u : State} (h : TracesExtend s t) (h' : TracesExtend t u) : TracesExtend s u :=
  ⟨h'.cfg.trans h.cfg, h.events.trans h'.events, h.nvmOps.trans h'.nvmOps⟩

/-- A change that touches none of the three. -/
theorem TracesExtend.of_eq {s t : State} (hc : t.cfg = s.cfg) (he : t.events = s.events) (hn : t.nvmOps = s.nvmOps) :
    TracesExtend s t :=
  ⟨hc, by rw [he], by rw [hn]⟩

theorem TracesExtend.refl (s : State) : TracesExtend s s := .of_eq rfl rfl rfl

/-- A change that appends events, and issues no transaction. -/
theorem TracesExtend.of_events {s t : State} {es : List Event} (hc : t.cfg = s.cfg) (he : t.events = s.events ++ es)
    (hn : t.nvmOps = s.nvmOps) : TracesExtend s t :=
  ⟨hc, ⟨es, he.symm⟩, by rw [hn]⟩

/-- A change that issues transactions, and appends no event. -/
theorem TracesExtend.of_nvmOps {s t : State} {ops : List NvmOp} (hc : t.cfg = s.cfg) (he : t.events = s.events)
    (hn : t.nvmOps = s.nvmOps ++ ops) : TracesExtend s t :=
  ⟨hc, by rw [he], ⟨ops, hn.symm⟩⟩

/-- What follows a change that touches none of the three. -/
theorem TracesExtend.after_eq {s u t : State} (h : TracesExtend u t) (hc : u.cfg = s.cfg) (he : u.events = s.events)
    (hn : u.nvmOps = s.nvmOps) : TracesExtend s t :=
  (TracesExtend.of_eq hc he hn).trans h

/-- What follows some transactions. -/
theorem TracesExtend.after_nvmOps {s u t : State} {ops : List NvmOp} (h : TracesExtend u t) (hc : u.cfg = s.cfg)
    (he : u.events = s.events) (hn : u.nvmOps = s.nvmOps ++ ops) : TracesExtend s t :=
  (TracesExtend.of_nvmOps hc he hn).trans h

/-! ## The operations over the state -/

/-- `Fail(kind)` appends one event (rule R334). -/
theorem flFail_extends (k : IoKind) (s : State) : TracesExtend s (flFail k s) := .of_events rfl (flFail_events s k) rfl

theorem flDone_extends (s : State) : TracesExtend s (flDone s) := .of_eq rfl rfl rfl

/-- A reset keeps both traces (rule R61). -/
theorem volatileReset_extends (s : State) : TracesExtend s (volatileReset s) := .of_eq rfl rfl rfl

theorem sendFrame_extends (cmd var : Byte) (value : Option Half) (s : State) :
    TracesExtend s (sendFrame cmd var value s) := by
  rw [sendFrame_eq]
  exact .of_events rfl rfl rfl

theorem hysteresis_extends (temp : Half) (fl : Byte) (s : State) : TracesExtend s (hysteresis temp fl s) := by
  rcases hysteresis_cases temp fl s with ⟨h, -, -⟩ | ⟨-, -, h⟩ | ⟨-, -, h⟩ <;> rw [h]
  · exact .refl s
  · exact .of_events rfl rfl rfl
  · rw [raise_overUnderTemp]
    exact .of_events rfl (List.append_assoc _ _ _) rfl

theorem snapshot_extends (raw : List Byte) (now : Word) (s : State) : TracesExtend s (snapshot raw now s) :=
  .of_events rfl (congrArg State.events (snapshot_eq raw now s)) rfl

theorem runRules_extends (now : Word) (s : State) : TracesExtend s (runRules now s) := by
  rw [runRules_eq]
  exact .of_events rfl rfl rfl

/-- Before `system_ready` nothing is evaluated (rule R191). -/
theorem evaluate_extends (now : Word) (s : State) : TracesExtend s (evaluate now s) := by
  unfold evaluate
  split
  · exact runRules_extends now s
  · exact .refl s

/-! ## The walks over the log (rules R335, R352, R355) -/

theorem findEmpty_extends (ks : List Nat) (s : State) : TracesExtend s (findEmpty ks s).2 := by
  obtain ⟨n, -, h, -⟩ := findEmpty_spec ks s
  obtain ⟨ops, hops, -⟩ := h.ops
  exact .of_nvmOps h.cfg (by rw [h.state]) hops

theorem findNewest_extends (ks : List Nat) (s : State) : TracesExtend s (findNewest ks s).2 := by
  induction ks generalizing s with
  | nil => exact .refl s
  | cons k ks ih =>
    rcases s.draws.nvmAnswer.ok_or_fail with h | h
    · simp only [findNewest, nvmRead_ok h]
      split
      · exact .of_nvmOps rfl rfl rfl
      · exact (ih _).after_nvmOps rfl rfl rfl
    · simp only [findNewest, nvmRead_fail h]
      exact .of_nvmOps rfl rfl rfl

theorem readBack_extends (ks : List Nat) (s : State) : TracesExtend s (readBack ks s).2 := by
  induction ks generalizing s with
  | nil => exact .refl s
  | cons k ks ih =>
    rcases s.draws.nvmAnswer.ok_or_fail with h | h
    · simp only [readBack, nvmRead_ok h]
      split
      · exact (ih _).after_nvmOps rfl rfl rfl
      · exact .of_nvmOps rfl rfl rfl
    · simp only [readBack, nvmRead_fail h]
      exact (flFail_extends _ _).after_nvmOps rfl rfl rfl

theorem countValid_extends (ks : List Nat) (n : Nat) (s : State) : TracesExtend s (countValid ks n s).2 := by
  induction ks generalizing n s with
  | nil => exact .refl s
  | cons k ks ih =>
    rcases s.draws.nvmAnswer.ok_or_fail with h | h
    · simp only [countValid, nvmRead_ok h]
      exact (ih _ _).after_nvmOps rfl rfl rfl
    · simp only [countValid, nvmRead_fail h]
      exact (flFail_extends _ _).after_nvmOps rfl rfl rfl

theorem initLog_extends (s : State) : TracesExtend s (initLog s) := by
  have hbegin : TracesExtend s (flBegin s) := .of_eq rfl rfl rfl
  have hempty := hbegin.trans (findEmpty_extends (List.range (capacity s.cfg)) (flBegin s))
  unfold initLog
  split
  · rename_i t he
    rw [he] at hempty
    exact hempty.trans (flFail_extends _ _)
  · rename_i e t he
    rw [he] at hempty
    have hnewest := hempty.trans (findNewest_extends (slotsBefore t.cfg (e.getD 0) (capacity t.cfg)) t)
    split
    · rename_i u hn
      rw [hn] at hnewest
      exact hnewest.trans (flFail_extends _ _)
    · rename_i q u hn
      rw [hn] at hnewest
      exact hnewest.trans (.of_eq rfl rfl rfl)

/-! ## The steps of an append (rules R340 to R346) -/

/-- A step whose transaction fails: the transaction is listed, then `Fail(kind)`. -/
theorem failedStep_extends {s u : State} {ops : List NvmOp} {k : IoKind} (hc : u.cfg = s.cfg)
    (he : u.events = s.events) (hn : u.nvmOps = s.nvmOps ++ ops) : TracesExtend s (flDone (flFail k u)) :=
  ((flFail_extends k u).trans (flDone_extends _)).after_nvmOps hc he hn

theorem appendCommit_extends (cut : Option CutPoint) (s : State) : TracesExtend s (appendCommit cut s) := by
  rcases s.draws.nvmAnswer.ok_or_fail with hok | hfail
  · by_cases hc : cut = some .cut3
    · rw [hc, appendCommit_cut hok]
      exact (volatileReset_extends _).after_nvmOps rfl rfl rfl
    · rw [appendCommit_ok hc hok]
      exact .of_nvmOps rfl rfl rfl
  · obtain ⟨n, d, h⟩ := appendCommit_fail (cut := cut) hfail
    rw [h]
    exact failedStep_extends rfl rfl rfl

theorem appendBody_extends (cut : Option CutPoint) (r : LogRequest) (now : Word) (s : State) :
    TracesExtend s (appendBody cut r now s) := by
  rcases s.draws.nvmAnswer.ok_or_fail with hok | hfail
  · by_cases hc : cut = some .cut2
    · rw [hc, appendBody_cut hok]
      exact (volatileReset_extends _).after_nvmOps rfl rfl rfl
    · rw [appendBody_ok hc hok]
      exact (appendCommit_extends _ _).after_nvmOps rfl rfl rfl
  · obtain ⟨n, d, h⟩ := appendBody_fail (cut := cut) (r := r) (now := now) hfail
    rw [h]
    exact failedStep_extends rfl rfl rfl

/-- The erase step where its transaction, if one is due, returns OK. -/
theorem appendErase_extends_of_ok {cut : Option CutPoint} {r : LogRequest} {now : Word} {s : State}
    (hd : nvmAllOk (eraseCount s.cfg s.flash.cursor) s.draws)
    (hc : cut = some .cut1 → s.flash.cursor % rps s.cfg ≠ 0) : TracesExtend s (appendErase cut r now s) := by
  obtain ⟨ph, h⟩ := appendErase_ok (r := r) (now := now) hc hd
  rw [h]
  exact (appendBody_extends _ _ _ _).after_nvmOps rfl rfl rfl

theorem appendErase_extends (cut : Option CutPoint) (r : LogRequest) (now : Word) (s : State) :
    TracesExtend s (appendErase cut r now s) := by
  by_cases hfirst : s.flash.cursor % rps s.cfg = 0
  · rcases s.draws.nvmAnswer.ok_or_fail with hok | hfail
    · by_cases hc : cut = some .cut1
      · rw [hc, appendErase_cut hfirst hok]
        exact (volatileReset_extends _).after_nvmOps rfl rfl rfl
      · refine appendErase_extends_of_ok (fun k hk => ?_) fun h => absurd h hc
        obtain rfl : k = 0 := by simpa [eraseCount, hfirst] using hk
        exact hok
    · obtain ⟨bs, d, -, h⟩ := appendErase_fail (cut := cut) (r := r) (now := now) hfirst hfail
      rw [h]
      exact failedStep_extends rfl rfl rfl
  · refine appendErase_extends_of_ok (fun k hk => ?_) fun _ => hfirst
    simp [eraseCount, hfirst] at hk

theorem appendRecord_extends (r : LogRequest) (now : Word) (s : State) : TracesExtend s (appendRecord r now s) :=
  (appendErase_extends _ _ _ _).after_eq rfl rfl rfl

/-! ## The instructions -/

/-- If the answer is a next state, that state extends `s`. -/
def AnswerExtends (s : State) (o : Host.Outcome State Fault Refusal) : Prop := ∀ t, o = .next t → TracesExtend s t

theorem AnswerExtends.next {s t : State} (h : TracesExtend s t) : AnswerExtends s (.next t) := by
  rintro _ ⟨⟩
  exact h

theorem AnswerExtends.fault {s : State} {r : Fault} : AnswerExtends s (.fault r) := fun _ h => nomatch h

theorem AnswerExtends.refused {s : State} {r : Refusal} : AnswerExtends s (.refused r) := fun _ h => nomatch h

theorem AnswerExtends.done {s t : State} {r : OpResult} (h : TracesExtend s t) : AnswerExtends s (done r t) :=
  .next (h.trans (.of_eq rfl rfl rfl))

/-- An operation on a link runs on that link, or is refused (rule R142). -/
theorem AnswerExtends.onLink {link : Byte} {s : State} {f : Link → Host.Outcome State Fault Refusal}
    (h : ∀ l, AnswerExtends s (f l)) : AnswerExtends s (onLink link s f) := by
  unfold Machine.onLink
  split
  · exact h _
  · exact .refused

/-- An operation on a ring buffer runs on its link, claimed, or is refused (rules R275, R441). -/
theorem AnswerExtends.onClaimed {link : Byte} {u : RingUser} {r : Refusal} {s : State}
    {f : Link → Host.Outcome State Fault Refusal} (h : ∀ l, AnswerExtends s (f l)) :
    AnswerExtends s (Machine.onLink link s fun l =>
      match claimRing u l with
      | none => .refused r
      | some l => f l) := by
  refine .onLink fun l => ?_
  cases claimRing u l with
  | none => exact .refused
  | some l => exact h l

/-- Bytes at a UART: the link is rewritten, the callbacks are appended (rules R312, R313). -/
theorem receiveFrame_extends (link : Byte) (bytes : List Byte) (s : State) :
    AnswerExtends s (receiveFrame link bytes s) :=
  .onClaimed fun _ => .done (.of_events rfl rfl rfl)

theorem execLdSend_extends (link cmd var : Byte) (hasValue : Bool) (value : Half) (s : State) :
    AnswerExtends s (execLdSend link cmd var hasValue value s) := by
  refine .onLink fun _ => ?_
  split
  · exact .next (sendFrame_extends _ _ _ _)
  · exact .refused

theorem execScanStart_extends (raw : List Byte) (now : Word) (s : State) :
    AnswerExtends s (execScanStart raw now s) := by
  unfold execScanStart
  split
  · exact .refused
  · exact .done (.of_eq rfl rfl rfl)

theorem execScanTick_extends (raw : List Byte) (now : Word) (s : State) :
    AnswerExtends s (execScanTick raw now s) := by
  unfold execScanTick
  split
  · exact .done ((snapshot_extends raw now s).trans (evaluate_extends now _))
  · exact .refused

theorem execThermalSample_extends (temp : Half) (fl : Byte) (raw32 : Word) (s : State) :
    AnswerExtends s (execThermalSample temp fl raw32 s) := by
  have hpublish : TracesExtend s (publish temp fl raw32 s) := .of_eq rfl rfl rfl
  refine .done ?_
  split
  · exact hpublish
  · exact hpublish.trans (hysteresis_extends _ _ _)

theorem execSetBypass_extends (v : Bool) (s : State) : AnswerExtends s (execSetBypass v s) := by
  refine .done ?_
  split
  · exact .refl s
  · exact .of_events rfl rfl rfl

theorem execBtnEdge_extends (now : Word) (s : State) : AnswerExtends s (execBtnEdge now s) := by
  refine .done ?_
  split <;> exact .of_eq rfl rfl rfl

theorem execDoReset_extends (s : State) : AnswerExtends s (execDoReset s) := by
  unfold execDoReset
  split
  · exact .done (.of_events rfl (clearSafetyFaults_events _) rfl)
  · exact .refused

theorem execDoForce_extends (s : State) : AnswerExtends s (execDoForce s) := by
  unfold execDoForce
  split
  · exact .done (.of_events rfl (latchSequence_events _ _) rfl)
  · exact .refused

theorem execFlAppend_extends (code flags : Half) (msg : List Byte) (now : Word) (s : State) :
    AnswerExtends s (execFlAppend code flags msg now s) := by
  unfold execFlAppend
  split
  · split
    · exact .next (appendRecord_extends _ _ _)
    · exact .fault
  · exact .refused

theorem execLogWrite_extends (now : Word) (s : State) : AnswerExtends s (execLogWrite now s) := by
  unfold execLogWrite
  split
  · split
    · exact .refused
    · split
      · exact .next ((appendRecord_extends _ _ _).after_eq rfl rfl rfl)
      · exact .fault
  · exact .refused

theorem execFlReadLastN_extends (n maxOut : Half) (s : State) : AnswerExtends s (execFlReadLastN n maxOut s) := by
  have hbegin : TracesExtend s (flBegin s) := .of_eq rfl rfl rfl
  unfold execFlReadLastN
  split
  · exact .done (hbegin.trans (readBack_extends _ _))
  · exact .refused

theorem execFlCountValid_extends (s : State) : AnswerExtends s (execFlCountValid s) := by
  have hbegin : TracesExtend s (flBegin s) := .of_eq rfl rfl rfl
  unfold execFlCountValid
  split
  · exact .done (hbegin.trans (countValid_extends _ _ _))
  · exact .refused

theorem execSwRead_extends (var : Byte) (s : State) : AnswerExtends s (execSwRead var s) := by
  have hdraw : TracesExtend s s.countDraw := .of_eq rfl rfl rfl
  unfold execSwRead
  split
  · split
    · exact .done hdraw
    · split
      · exact .done hdraw
      · exact .refused
  · exact .refused

/-- Every instruction keeps the configuration and extends both traces. -/
theorem exec_extends (i : Instr) (s : State) : AnswerExtends s (exec i s) := by
  cases i with
  | frameReadReq link _ | frameReadReply link _ _ | frameWrite link _ _ | frameAck link _ _ =>
    exact receiveFrame_extends link _ s
  | logRecord _ _ _ _ _ _ => exact .refused
  | coldReset | powerLoss => exact .next (volatileReset_extends s)
  | scanStart raw now => exact execScanStart_extends raw now s
  | scanTick raw now => exact execScanTick_extends raw now s
  | thermalSample temp fl raw32 => exact execThermalSample_extends temp fl raw32 s
  | setBypass v => exact execSetBypass_extends v s
  | btnEdge now => exact execBtnEdge_extends now s
  | reqReset | reqForce => exact .done (.of_eq rfl rfl rfl)
  | doReset => exact execDoReset_extends s
  | doForce => exact execDoForce_extends s
  | rbPut _ _ | rbGet _ | rbWrite _ _ | ldRxByte _ _ => exact .onClaimed fun _ => .done (.of_eq rfl rfl rfl)
  | fpFeed _ _ => exact .onLink fun _ => .done (.of_eq rfl rfl rfl)
  | ldPoll _ => exact .onClaimed fun _ => .done (.of_events rfl rfl rfl)
  | ldWriteU16 _ _ _ | ldReadU16 _ _ => exact .onLink fun _ => .next (sendFrame_extends _ _ _ _)
  | ldSend link cmd var hasValue value => exact execLdSend_extends link cmd var hasValue value s
  | flInit => exact .next ((initLog_extends s).trans (flDone_extends _))
  | flAppend code flags msg now => exact execFlAppend_extends code flags msg now s
  | flReadLastN n maxOut => exact execFlReadLastN_extends n maxOut s
  | flCountValid => exact execFlCountValid_extends s
  | logWrite now => exact execLogWrite_extends now s
  | swRead var => exact execSwRead_extends var s

/-! ## The step -/

/-- Taking an input off the inbox and noting its time leaves the configuration and the traces, so a step extends them
as the instruction, or the bytes at a UART, do. -/
theorem step_extends {s t : State} (h : step s = .next t) : TracesExtend s t := by
  rcases step_cases h with ⟨-, rfl⟩ | ⟨x, rest, i, -, -, -, he⟩ | ⟨link, bytes, rest, -, hr⟩
  · exact .refl t
  · exact (exec_extends i _ t he).after_eq rfl rfl rfl
  · exact (receiveFrame_extends link bytes _ t hr).after_eq rfl rfl rfl

/-- An input that does not decode is refused unless it is bytes at a UART that are no frame (rules R128, R142). -/
theorem receiveUndecoded_refused {e : DecodeError} {x : Input} (s : State)
    (h : e ≠ .notAFrame ∨ ∀ link, x.port ≠ .uart link) : receiveUndecoded e x s = .refused (.undecodable e) := by
  unfold receiveUndecoded
  split
  · rename_i link hport
    rcases h with h | h
    · exact absurd rfl h
    · exact absurd hport (h link)
  · rfl

end Sys2Proof.Machine

namespace Sys2Proof.Proofs

open Sys2Proof Sys2Proof.Machine

/-- Settles O59: from `step_extends`, by what each instruction does to the traces. -/
theorem tracesOnlyGrow : Obligations.TracesOnlyGrow := by
  intro s t h
  obtain ⟨hcfg, hevents, hops⟩ := step_extends h
  exact ⟨hcfg, hevents, hops⟩

/-- Settles O1: the premise on the time base is `timeBaseOk` (`timeBaseOk_iff`), and each clause is the step lemma of
its case. -/
theorem stepRunsDecodedInstruction : Obligations.StepRunsDecodedInstruction := by
  intro s
  refine ⟨?_, ?_, step_idle⟩
  · intro x rest i hx hd s' premise
    have hpremise : timeBaseOk i s' = true ↔ premise := timeBaseOk_iff
    constructor
    · intro hp
      exact step_instr hx hd (hpremise.2 hp)
    · intro hp
      exact step_broken hx hd (Bool.eq_false_iff.2 fun ht => hp (hpremise.1 ht))
  · intro x rest e hx hd hport
    rw [step_undecoded hx hd]
    exact receiveUndecoded_refused _ hport

/-- Settles O54: the meaning of LOG_RECORD is that refusal, on every path (rules R11, R87). -/
theorem recordImageIsRefused : Obligations.RecordImageIsRefused := by
  intro s seq ms code flags msg commit
  rfl

end Sys2Proof.Proofs
end

section
/-! The invariant of the state (`Inv`): what a reset gives it, what keeps it, operation by operation, then for each
instruction and for one step. -/

namespace Sys2Proof.Machine

/-! ## One link (rules R30, R50, R82, R270, R292) -/

/-- What `linksOk` says of one link. -/
def linkOk (c : Config) (role : Role) (l : Link) : Prop := ringOk c l ∧ parserOk c role l

/-- An admitted ring capacity leaves room in a counter for one byte more (rule R6). -/
theorem Config.wf_rbN_le {c : Config} (h : c.wf = true) : c.rbN ≤ 2 ^ 15 := by
  obtain ⟨k, hk, hc⟩ := Config.wf_rbN h
  rw [hc]
  exact Nat.pow_le_pow_right (by omega) (by omega)

/-- An admitted debounce count is at least 1 (rule R6). -/
theorem Config.wf_debounceN {c : Config} (h : c.wf = true) : 0 < c.debounceN := by
  simp only [Config.wf, Bool.and_eq_true, decide_eq_true_eq] at h
  exact h.1.1.1.1.1.1.1.1.1.1.1.1.1.1

theorem capacity_pos {c : Config} (h : c.wf = true) : 0 < capacity c :=
  Nat.mul_pos (Config.wf_record h).2 (rps_pos h)

section
variable {c : Config} {role : Role} {l : Link}

theorem linkOk_of_linkReset (h : linkReset c l) : linkOk c role l := by
  obtain ⟨hhead, htail, hbuf, hstate, hidx, hexp, hfp, -, -⟩ := h
  refine ⟨⟨hbuf, ?_⟩, hfp, ?_⟩
  · simp [ringCount, hhead, htail]
  · rw [hstate]
    exact ⟨hidx, hexp⟩

/-- Claiming a ring buffer writes down its user only (rules R275, R441). -/
theorem claimRing_linkOk {u : RingUser} {l' : Link} (h : linkOk c role l) (hc : claimRing u l = some l') :
    linkOk c role l' := by
  unfold claimRing at hc
  split at hc
  · cases hc
    exact h
  · cases hc

theorem ringPut_linkOk (hw : c.wf = true) (b : Byte) (h : linkOk c role l) : linkOk c role (ringPut c b l).1 := by
  by_cases hn : ringCount l = c.rbN
  · rw [ringPut_full hn]
    exact h
  · rw [ringPut_room hn]
    have hring := (ringContents_put (l' := { l with rbBuf := _, rbHead := _ }) hw h.1 hn (b := b) rfl rfl rfl).1
    exact ⟨hring, h.2⟩

theorem ringGet_linkOk (h : linkOk c role l) : linkOk c role (ringGet c l).1 := by
  by_cases hn : ringCount l = 0
  · rw [ringGet_empty hn]
    exact h
  · rw [ringGet_some hn]
    have hring := (ringContents_get (l' := { l with rbTail := l.rbTail + 1 }) h.1 hn rfl rfl rfl).1
    exact ⟨hring, h.2⟩

theorem ringWrite_linkOk (hw : c.wf = true) (bytes : List Byte) (h : linkOk c role l) :
    linkOk c role (ringWrite c bytes l).1 := by
  obtain ⟨-, hring, -, hframe⟩ := ringWrite_spec hw bytes h.1
  refine ⟨hring, ?_⟩
  rw [hframe]
  exact h.2

theorem rxByte_linkOk (hw : c.wf = true) (b : Byte) (h : linkOk c role l) : linkOk c role (rxByte c b l) :=
  ringPut_linkOk hw b h

theorem rxBytes_linkOk (hw : c.wf = true) (bytes : List Byte) (h : linkOk c role l) :
    linkOk c role (bytes.foldl (fun l b => rxByte c b l) l) := by
  induction bytes generalizing l with
  | nil => exact h
  | cons b bs ih => exact ih (rxByte_linkOk hw b h)

/-- A parser that has been reset, whatever its buffer holds (rule R292). -/
theorem parserOk_reset {buf : List Byte} (h : buf.length = c.fpBufLen) :
    parserOk c role { l with fpState := .waitStart, fpIdx := 0, fpExpected := 0, fpBuf := buf } :=
  ⟨h, rfl, rfl⟩

/-- What stands before the place a byte is stored at is kept. -/
theorem getD_set_of_ne {bs : List Byte} {i j : Nat} {b : Byte} (h : i ≠ j) : (bs.set i b).getD j 0 = bs.getD j 0 := by
  simp [List.getD_eq_getElem?_getD, List.getElem?_set_ne h]

theorem getD_set_same {bs : List Byte} {i : Nat} {b : Byte} (h : i < bs.length) : (bs.set i b).getD i 0 = b := by
  simp [List.getD_eq_getElem?_getD, h]

/-- A frame is longer than its start byte and its command (rule R122). -/
theorem two_lt_frameLen {b : Byte} (h : frameLen c role b ≠ 0) : 2 < frameLen c role b := by
  revert h
  unfold frameLen
  split_ifs
  · simp
  · simp
  · cases role <;> simp
  · simp

/-- A byte fed to a parser in WAIT_START: noise, or the first byte of a frame (rule R287). -/
theorem fpFeed_parserOk_waitStart (hb : 2 ≤ c.fpBufLen) (b : Byte) (h : parserOk c role l)
    (hs : l.fpState = .waitStart) : parserOk c role (fpFeed c role b l).1 := by
  by_cases hstart : b = c.frameStart
  · rw [fpFeed_start hs hstart]
    have hlen : l.fpBuf.length = c.fpBufLen := h.1
    obtain ⟨-, hexp⟩ : l.fpIdx = 0 ∧ l.fpExpected = 0 := by simpa [hs] using h.2
    exact ⟨by simpa using hlen, rfl, hexp, by rw [← hstart]; exact getD_set_same (by omega)⟩
  · rw [fpFeed_noise hs hstart]
    exact h

/-- A byte fed to a parser in WAIT_LEN: the command fixes the length, which fits the buffer, or the parser is reset
(rules R288, R82). -/
theorem fpFeed_parserOk_waitLen (hb : 2 ≤ c.fpBufLen) (b : Byte) (h : parserOk c role l)
    (hs : l.fpState = .waitLen) : parserOk c role (fpFeed c role b l).1 := by
  have hlen : (l.fpBuf.set 1 b).length = c.fpBufLen := by simpa using h.1
  obtain ⟨-, -, hfirst⟩ : l.fpIdx = 1 ∧ l.fpExpected = 0 ∧ l.fpBuf.getD 0 0 = c.frameStart := by simpa [hs] using h.2
  by_cases hn : frameLen c role b = 0 ∨ c.fpBufLen < frameLen c role b
  · rw [fpFeed_badCmd hs hn]
    exact parserOk_reset hlen
  · obtain ⟨h0, hfit⟩ := not_or.1 hn
    rw [fpFeed_cmd hs h0 (Nat.not_lt.1 hfit)]
    have hcmd : (l.fpBuf.set 1 b).getD 1 0 = b := getD_set_same (by have := h.1; omega)
    refine ⟨hlen, Nat.le_refl 2, ?_, Nat.not_lt.1 hfit, by rw [hcmd], ?_⟩
    · exact two_lt_frameLen h0
    · exact (getD_set_of_ne (by omega)).trans hfirst

/-- A byte fed to a parser in ACCUM: it is stored behind the first two, and the last one resets the parser (rules R289,
R290). -/
theorem fpFeed_parserOk_accum (b : Byte) (h : parserOk c role l) (hs : l.fpState = .accum) :
    parserOk c role (fpFeed c role b l).1 := by
  have hlen : (l.fpBuf.set l.fpIdx b).length = c.fpBufLen := by simpa using h.1
  obtain ⟨hidx, hlt, hfit, hexp, hfirst⟩ : 2 ≤ l.fpIdx ∧ l.fpIdx < l.fpExpected ∧ l.fpExpected ≤ c.fpBufLen
      ∧ l.fpExpected = frameLen c role (l.fpBuf.getD 1 0) ∧ l.fpBuf.getD 0 0 = c.frameStart := by simpa [hs] using h.2
  by_cases hmore : l.fpIdx + 1 < l.fpExpected
  · rw [fpFeed_more hs hmore]
    refine ⟨hlen, ?_⟩
    simp only [hs]
    rw [getD_set_of_ne (by omega), getD_set_of_ne (by omega)]
    exact ⟨by omega, hmore, hfit, hexp, hfirst⟩
  · by_cases hend : (l.fpBuf.set l.fpIdx b).getD (l.fpExpected - 1) 0 = c.frameEnd
    · rw [fpFeed_done hs (Nat.not_lt.1 hmore) hend]
      exact parserOk_reset hlen
    · rw [fpFeed_badEnd hs (Nat.not_lt.1 hmore) hend]
      exact parserOk_reset hlen

theorem fpFeed_linkOk (hb : 2 ≤ c.fpBufLen) (b : Byte) (h : linkOk c role l) :
    linkOk c role (fpFeed c role b l).1 := by
  constructor
  · rw [(fpFeed_frame c role b l).1]
    exact h.1
  · cases hs : l.fpState with
    | waitStart => exact fpFeed_parserOk_waitStart hb b h.2 hs
    | waitLen => exact fpFeed_parserOk_waitLen hb b h.2 hs
    | accum => exact fpFeed_parserOk_accum b h.2 hs

theorem drain_linkOk (hb : 2 ≤ c.fpBufLen) (n : Nat) (h : linkOk c role l) : linkOk c role (drain c role n l).1 := by
  induction n generalizing l with
  | zero => exact h
  | succ n ih =>
    by_cases hn : ringCount l = 0
    · rw [drain_empty hn]
      exact h
    · have hget := ringGet_linkOk h
      rw [ringGet_some hn] at hget
      rw [drain_succ hn]
      exact ih (fpFeed_linkOk hb _ hget)

theorem pollLink_linkOk (hb : 2 ≤ c.fpBufLen) (h : linkOk c role l) : linkOk c role (pollLink c role l).1 :=
  drain_linkOk hb _ h

end

/-! ## The invariant and the parts of the state -/

/-- The elements no invariant speaks of may change in any way. -/
theorem Inv.outside {s : State} (h : Inv s) {g : Signals} {m : Memory} {es : List Event} {ops : List NvmOp}
    {r : OpResult} {d : Draws} {ins : List Input} {now : Option Word} :
    Inv { s with signals := g, nvm := m, events := es, nvmOps := ops, result := r, draws := d, inbox := ins,
                 lastNow := now } :=
  ⟨h.scanner, h.edges, h.links, h.latched, h.flash, h.queue, h.reading⟩

/-- The table of rule R64 meets the invariant, where a debounce count is admitted. -/
theorem inv_of_resetTable {s : State} (hn : 0 < s.cfg.debounceN) (h : resetTable s) : Inv s := by
  obtain ⟨hst, hcnt, hstarted, hready, hactive, -, -, -, hr2, hr4, hsafety, hthermal, hlatch, -, -, -, hinited, hphase,
    -, hlogq, hlen, hlinks⟩ := h
  exact {
    scanner := ⟨hst, by simp [hcnt], fun n hmem => by rw [hcnt] at hmem; rwa [(List.mem_replicate.1 hmem).2],
      by simp [hready]⟩
    edges := by simp [edgeMemoryOk, hr2, hr4, hactive]
    links := ⟨hlen, fun k l hl => linkOk_of_linkReset (hlinks l (List.mem_of_getElem? hl))⟩
    latched := by simp [latchedSafe, hsafety]
    flash := ⟨hphase, by simp [hinited]⟩
    queue := ⟨by simp [hlogq], hlatch⟩
    reading := by simp [readingOk, hthermal] }

/-- The table of rule R64 is the state `State.resetWith` writes down. -/
theorem resetWith_table (c : Config) : resetTable (State.resetWith c) := by
  simp [resetTable, State.resetWith, linkReset, Link.reset, Config.nLink]

/-- A reset meets the invariant whatever came before it (rules R430, R431). -/
theorem volatileReset_inv {s : State} (hw : s.cfg.wf = true) : Inv (volatileReset s) :=
  inv_of_resetTable (Config.wf_debounceN hw) (volatileReset_table s)

/-- A log request leaves the queue bounded (rules R45, R211). -/
theorem length_queued_le {c : Config} {q : List LogRequest} (k : LogKind) (h : q.length ≤ c.logqDepth) :
    (queued c k q).length ≤ c.logqDepth := by
  unfold queued
  split
  · simpa using ‹q.length < c.logqDepth›
  · exact h

/-- One link is rewritten. -/
theorem Inv.setLink {s : State} (h : Inv s) {k : Nat} {l : Link} (hl : linkOk s.cfg (roleOf s.cfg k) l) :
    Inv (s.setLink k l) := by
  obtain ⟨hlen, hall⟩ := h.links
  refine { h with links := ⟨by simpa using hlen, fun j l' hj => ?_⟩ }
  rw [State.setLink_links, List.getElem?_set] at hj
  split at hj
  · rename_i hkj
    obtain ⟨-, rfl⟩ : k < s.links.length ∧ l = l' := by simpa using hj
    exact hkj ▸ hl
  · exact hall j l' hj

/-! ## The scanner and the rules (rules R171, R173, R193) -/

/-- A counter below DEBOUNCE_N stays below it: the sample that would bring it there commits the change (rule R173). -/
theorem debounceOne_cnt_lt {n cnt : Nat} (raw st : Bool) (h : cnt < n) : (debounceOne n raw st cnt).2.1 < n := by
  have hpos : 0 < n := by omega
  unfold debounceOne
  split
  · split
    · exact hpos
    · show cnt + 1 < n
      omega
  · exact hpos

theorem cnt_lt_debounceN {s : State} (hn : 0 < s.cfg.debounceN) (h : scannerOk s) (i : Nat) :
    s.cnt i < s.cfg.debounceN := by
  obtain ⟨-, -, hlt, -⟩ := h
  unfold State.cnt
  rw [List.getD_eq_getElem?_getD]
  cases hi : s.scan.cnt[i]? with
  | none => exact hn
  | some n => exact hlt n (List.mem_of_getElem? hi)

/-- One sample and the ready update (rules R172, R175). -/
theorem Inv.snapshot {s : State} (hn : 0 < s.cfg.debounceN) (h : Inv s) (hs : s.scan.started = true)
    (raw : List Byte) (now : Word) : Inv (Machine.snapshot raw now s) := by
  have hscan : scannerOk (Machine.snapshot raw now s) := by
    have hcfg : (Machine.snapshot raw now s).cfg = s.cfg := rfl
    refine ⟨by simp [snapshot_scan, hcfg], by simp [snapshot_scan, hcfg], fun n hmem => ?_, fun _ => hs⟩
    rw [snapshot_scan] at hmem
    obtain ⟨i, -, rfl⟩ := List.mem_map.1 hmem
    exact debounceOne_cnt_lt _ _ (cnt_lt_debounceN hn h.scanner i)
  exact { h with scanner := hscan }

/-- Rule 3 has acted exactly if the sticky flag is 1 and was 0 (rule R206). -/
theorem ruleThreeActsAfter_eq (now : Word) (s : State) :
    ((s.safety.faultLatched || ruleThreeActsAfter now s) && !s.safety.faultLatched) = ruleThreeActsAfter now s := by
  unfold ruleThreeActsAfter
  cases s.safety.faultLatched <;> simp

/-- The five rules: rules 2 and 4 keep their edge memories with their flags, rule 3 acts on the latches and the laser
when it latches, and rules 3 and 4 make one log request each (rules R193, R206, R209). -/
theorem Inv.runRules {s : State} (h : Inv s) (now : Word) : Inv (Machine.runRules now s) := by
  rw [runRules_eq]
  have hqueue : (queueAtRuleFour now s).length ≤ s.cfg.logqDepth := by
    unfold queueAtRuleFour
    split
    · exact length_queued_le _ h.queue.1
    · exact h.queue.1
  exact { h with
    edges := ⟨rfl, rfl⟩
    latched := by
      intro hf
      cases hacts : ruleThreeActsAfter now s with
      | true => simp
      | false =>
        obtain ⟨hoff, hlatch⟩ := h.latched (by simpa [hacts] using hf)
        exact ⟨by simp [hoff], by simpa using hlatch⟩
    queue := by
      constructor
      · show (if _ then _ else _ : List LogRequest).length ≤ _
        split
        · exact length_queued_le _ hqueue
        · exact hqueue
      · show (if _ then _ else _ : List Bool).length = _
        split
        · simp
        · exact h.queue.2 }

theorem Inv.evaluate {s : State} (h : Inv s) (now : Word) : Inv (Machine.evaluate now s) := by
  unfold Machine.evaluate
  split
  · exact h.runRules now
  · exact h

/-! ## The thermal guard (rules R232 to R241) -/

theorem readingOf_rangeFault (c : Config) (temp : Half) (fl : Byte) (raw32 : Word) :
    (readingOf c temp fl raw32).rangeFault = true ↔ temp.toInt > c.tHighTrip ∨ temp.toInt < c.tLowTrip := by
  unfold readingOf outOfRange
  rw [Bool.or_eq_true, decide_eq_true_eq, decide_eq_true_eq]
  rfl

theorem Inv.publish {s : State} (h : Inv s) (temp : Half) (fl : Byte) (raw32 : Word) :
    Inv (Machine.publish temp fl raw32 s) := by
  refine { h with reading := ?_ }
  rintro _ ⟨⟩
  exact readingOf_rangeFault s.cfg temp fl raw32

/-- A trip switches the laser off and makes one log request (rule R234). -/
theorem Inv.overUnderTemp {s : State} (h : Inv s) (temp : Half) : Inv (raiseCondition (.overUnderTemp temp) s) := by
  rw [raise_overUnderTemp]
  exact { h with
    latched := fun hf => ⟨rfl, (h.latched hf).2⟩
    queue := ⟨length_queued_le _ h.queue.1, h.queue.2⟩ }

theorem Inv.hysteresis {s : State} (h : Inv s) (temp : Half) (fl : Byte) : Inv (Machine.hysteresis temp fl s) := by
  rcases hysteresis_cases temp fl s with ⟨heq, -, -⟩ | ⟨-, -, heq⟩ | ⟨-, -, heq⟩ <;> rw [heq]
  · exact h
  · exact { h with }
  · exact h.overUnderTemp temp

/-! ## The log (rules R335 to R358) -/

/-- While an append is in flight the invariant holds of the state but for `fl_phase` (rule R30): it holds with the phase
put back to IDLE. -/
abbrev InFlight (s : State) : Prop := Inv (setPhase .idle s)

theorem Inv.inFlight {s : State} (h : Inv s) : InFlight s :=
  { h with flash := ⟨rfl, h.flash.2⟩ }

/-- Neither the NVM, the draws, the transactions nor the phase matter to an append in flight. -/
theorem InFlight.outside {s : State} (h : InFlight s) {p : FlPhase} {m : Memory} {d : Draws} {ops : List NvmOp} :
    InFlight { s with flash := { s.flash with phase := p }, nvm := m, draws := d, nvmOps := ops } :=
  Inv.outside h

/-- `Fail(kind)` ends the append (rule R334). -/
theorem InFlight.flFail {s : State} (h : InFlight s) (k : IoKind) : Inv (Machine.flFail k s) :=
  { h with flash := ⟨rfl, h.flash.2⟩ }

theorem Inv.flFail {s : State} (h : Inv s) (k : IoKind) : Inv (Machine.flFail k s) := h.inFlight.flFail k

theorem Inv.flBegin {s : State} (h : Inv s) : Inv (Machine.flBegin s) := { h with }

/-- A failed transaction of an append. -/
theorem InFlight.failedStep {s : State} (h : InFlight s) {k : IoKind} {m : Memory} {d : Draws} {ops : List NvmOp} :
    Inv (flDone (Machine.flFail k { s with nvm := m, nvmOps := ops, draws := d })) :=
  (h.outside.flFail k).outside

/-- The walks read only. -/
theorem ReadsOnly.inv {s t : State} {n : Nat} (hr : ReadsOnly s t n) (h : Inv s) : Inv t := by
  rw [hr.state]
  exact h.outside

/-- The slot FL_INIT finds empty is one of those it walked. -/
theorem findEmpty_mem {ks : List Nat} {s : State} {k : Nat} (h : (findEmpty ks s).1 = some (some k)) : k ∈ ks := by
  obtain ⟨n, -, -, -, hcase⟩ := findEmpty_spec ks s
  rw [h] at hcase
  obtain ⟨-, a, b, rfl, -⟩ := hcase
  simp

/-- FL_INIT leaves a cursor that is a slot: the first empty one, or 0 (rule R335). -/
theorem Inv.initLog {s : State} (h : Inv s) (hw : s.cfg.wf = true) : Inv (Machine.initLog s) := by
  obtain ⟨n, -, hreads, -, -⟩ := findEmpty_spec (List.range (capacity s.cfg)) (Machine.flBegin s)
  have hempty := hreads.inv h.flBegin
  have hcfg : (findEmpty (List.range (capacity s.cfg)) (Machine.flBegin s)).2.cfg = s.cfg := hreads.cfg
  unfold Machine.initLog
  split
  · rename_i t he
    rw [he] at hempty
    exact hempty.flFail _
  · rename_i e t he
    rw [he] at hempty hcfg
    have hcursor : e.getD 0 < capacity s.cfg := by
      cases e with
      | none => exact capacity_pos hw
      | some k => exact List.mem_range.1 (findEmpty_mem (congrArg Prod.fst he))
    obtain ⟨n', -, hreads', -, -⟩ := findNewest_spec (slotsBefore t.cfg (e.getD 0) (capacity t.cfg)) t
      (by rw [hcfg]; exact Config.wf_commit hw)
    have hnewest := hreads'.inv hempty
    have hcfg' := hreads'.cfg
    split
    · rename_i u hn
      rw [hn] at hnewest
      exact hnewest.flFail _
    · rename_i q u hn
      rw [hn] at hnewest hcfg'
      refine { hnewest with flash := ⟨rfl, fun _ => ?_⟩ }
      show e.getD 0 < capacity u.cfg
      rwa [hcfg', hcfg]

theorem Inv.readBack {s : State} (h : Inv s) (hw : s.cfg.wf = true) (ks : List Nat) :
    Inv (Machine.readBack ks s).2 := by
  obtain ⟨n, u, -, hreads, heq, -⟩ := readBack_spec ks s (Config.wf_commit hw)
  have hu := hreads.inv h
  rw [heq]
  split
  · exact hu
  · exact hu.flFail _

theorem Inv.countValid {s : State} (h : Inv s) (hw : s.cfg.wf = true) (ks : List Nat) (m : Nat) :
    Inv (Machine.countValid ks m s).2 := by
  obtain ⟨n, u, -, hreads, hcase⟩ := countValid_spec ks m s (Config.wf_commit hw)
  have hu := hreads.inv h
  rcases hcase with ⟨-, heq, -⟩ | ⟨-, heq, -⟩ <;> rw [heq]
  · exact hu
  · exact hu.flFail _

/-- The commit step ends the append: the cursor goes on to a slot, or the step fails, or a reset comes (rules R343,
R345, R346). -/
theorem InFlight.appendCommit {s : State} (h : InFlight s) (hw : s.cfg.wf = true) (cut : Option CutPoint) :
    Inv (Machine.appendCommit cut s) := by
  rcases s.draws.nvmAnswer.ok_or_fail with hok | hfail
  · by_cases hc : cut = some .cut3
    · rw [hc, appendCommit_cut hok]
      exact volatileReset_inv hw
    · rw [appendCommit_ok hc hok]
      exact { h with flash := ⟨rfl, fun _ => Nat.mod_lt _ (capacity_pos hw)⟩ }
  · obtain ⟨n, d, heq⟩ := appendCommit_fail (cut := cut) hfail
    rw [heq]
    exact h.failedStep

theorem InFlight.appendBody {s : State} (h : InFlight s) (hw : s.cfg.wf = true) (cut : Option CutPoint)
    (r : LogRequest) (now : Word) : Inv (Machine.appendBody cut r now s) := by
  rcases s.draws.nvmAnswer.ok_or_fail with hok | hfail
  · by_cases hc : cut = some .cut2
    · rw [hc, appendBody_cut hok]
      exact volatileReset_inv hw
    · rw [appendBody_ok hc hok]
      refine h.outside.appendCommit ?_ cut
      exact hw
  · obtain ⟨n, d, heq⟩ := appendBody_fail (cut := cut) (r := r) (now := now) hfail
    rw [heq]
    exact h.failedStep

theorem Inv.appendErase {s : State} (h : Inv s) (hw : s.cfg.wf = true) (cut : Option CutPoint) (r : LogRequest)
    (now : Word) : Inv (Machine.appendErase cut r now s) := by
  have herased (hd : nvmAllOk (eraseCount s.cfg s.flash.cursor) s.draws)
      (hc : cut = some .cut1 → s.flash.cursor % rps s.cfg ≠ 0) : Inv (Machine.appendErase cut r now s) := by
    obtain ⟨p, heq⟩ := appendErase_ok (r := r) (now := now) hc hd
    rw [heq]
    refine h.inFlight.outside.appendBody ?_ cut r now
    exact hw
  by_cases hfirst : s.flash.cursor % rps s.cfg = 0
  · rcases s.draws.nvmAnswer.ok_or_fail with hok | hfail
    · by_cases hc : cut = some .cut1
      · rw [hc, appendErase_cut hfirst hok]
        exact volatileReset_inv hw
      · refine herased (fun k hk => ?_) fun hcut => absurd hcut hc
        obtain rfl : k = 0 := by simpa [eraseCount, hfirst] using hk
        exact hok
    · obtain ⟨bs, d, -, heq⟩ := appendErase_fail (cut := cut) (r := r) (now := now) hfirst hfail
      rw [heq]
      exact h.inFlight.failedStep
  · refine herased (fun k hk => ?_) fun _ => hfirst
    simp [eraseCount, hfirst] at hk

theorem Inv.appendRecord {s : State} (h : Inv s) (hw : s.cfg.wf = true) (r : LogRequest) (now : Word) :
    Inv (Machine.appendRecord r now s) :=
  Inv.appendErase (Inv.flBegin h.outside) hw _ r now

/-! ## The instructions -/

/-- If the answer is a next state, the invariant holds of it. -/
def AnswerInv (o : Host.Outcome State Fault Refusal) : Prop := ∀ t, o = .next t → Inv t

theorem AnswerInv.next {t : State} (h : Inv t) : AnswerInv (.next t) := by
  rintro _ ⟨⟩
  exact h

theorem AnswerInv.fault {r : Fault} : AnswerInv (.fault r) := fun _ h => nomatch h

theorem AnswerInv.refused {r : Refusal} : AnswerInv (.refused r) := fun _ h => nomatch h

theorem AnswerInv.done {t : State} {r : OpResult} (h : Inv t) : AnswerInv (Machine.done r t) := .next h.outside

/-- An operation on a link finds a consistent link, or is refused (rule R142). -/
theorem AnswerInv.onLink {link : Byte} {s : State} {f : Link → Host.Outcome State Fault Refusal} (h : Inv s)
    (hf : ∀ l, linkOk s.cfg (roleOf s.cfg link.toNat) l → AnswerInv (f l)) : AnswerInv (Machine.onLink link s f) := by
  unfold Machine.onLink
  split
  · rename_i l hl
    exact hf l (h.links.2 _ l hl)
  · exact .refused

/-- An operation on a ring buffer finds a consistent link and claims it, or is refused (rules R275, R441). -/
theorem AnswerInv.onClaimed {link : Byte} {u : RingUser} {r : Refusal} {s : State}
    {f : Link → Host.Outcome State Fault Refusal} (h : Inv s)
    (hf : ∀ l, linkOk s.cfg (roleOf s.cfg link.toNat) l → AnswerInv (f l)) :
    AnswerInv (Machine.onLink link s fun l =>
      match claimRing u l with
      | none => .refused r
      | some l => f l) := by
  refine .onLink h fun l hl => ?_
  cases hc : claimRing u l with
  | none => exact .refused
  | some l' => exact hf l' (claimRing_linkOk hl hc)

section
variable {s : State}

/-- Bytes at a UART: each is queued, then all are drained (rules R311, R312). -/
theorem receiveFrame_inv (h : Inv s) (hw : s.cfg.wf = true) (hb : 2 ≤ s.cfg.fpBufLen) (link : Byte)
    (bytes : List Byte) : AnswerInv (receiveFrame link bytes s) :=
  .onClaimed h fun _ hl => .done (h.setLink (pollLink_linkOk hb (rxBytes_linkOk hw bytes hl))).outside

theorem sendFrame_inv (h : Inv s) (cmd var : Byte) (value : Option Half) : Inv (sendFrame cmd var value s) := by
  rw [sendFrame_eq]
  exact h.outside

theorem execLdSend_inv (h : Inv s) (link cmd var : Byte) (hasValue : Bool) (value : Half) :
    AnswerInv (execLdSend link cmd var hasValue value s) := by
  refine .onLink h fun _ _ => ?_
  split
  · exact .next (sendFrame_inv h _ _ _)
  · exact .refused

/-- SCAN_START takes one stable state and one counter at 0 for each input (rule R171). -/
theorem execScanStart_inv (h : Inv s) (hw : s.cfg.wf = true) (raw : List Byte) (now : Word) :
    AnswerInv (execScanStart raw now s) := by
  unfold execScanStart
  split
  · exact .refused
  · refine .done { h with scanner := ⟨by simp, by simp, fun n hmem => ?_, fun _ => rfl⟩ }
    rw [(List.mem_replicate.1 hmem).2]
    exact Config.wf_debounceN hw

theorem execScanTick_inv (h : Inv s) (hw : s.cfg.wf = true) (raw : List Byte) (now : Word) :
    AnswerInv (execScanTick raw now s) := by
  unfold execScanTick
  split
  · exact .done ((h.snapshot (Config.wf_debounceN hw) ‹_› raw now).evaluate now)
  · exact .refused

theorem execThermalSample_inv (h : Inv s) (temp : Half) (fl : Byte) (raw32 : Word) :
    AnswerInv (execThermalSample temp fl raw32 s) := by
  refine .done ?_
  split
  · exact h.publish temp fl raw32
  · exact (h.publish temp fl raw32).hysteresis temp fl

theorem execSetBypass_inv (h : Inv s) (v : Bool) : AnswerInv (execSetBypass v s) := by
  refine .done ?_
  split
  · exact h
  · exact { h with }

theorem execBtnEdge_inv (h : Inv s) (now : Word) : AnswerInv (execBtnEdge now s) := by
  refine .done ?_
  split
  · exact h.outside
  · exact h

/-- DO_RESET clears the latched fault together with the latches (rule R257). -/
theorem execDoReset_inv (h : Inv s) : AnswerInv (execDoReset s) := by
  unfold execDoReset
  split
  · exact .done { h with latched := nofun, queue := ⟨h.queue.1, by simp⟩ }
  · exact .refused

/-- All that a pending DO_FORCE does (rule R258). -/
theorem execDoForce_pending (h : s.signals.forcePending = true) :
    execDoForce s = .next { s with
      signals := { s.signals with forcePending := false }
      safety  := ⟨true, true, true⟩
      latchQ  := List.replicate s.cfg.nLatch false
      events  := s.events ++ [.latchSeq .fault]
      result  := .nothing } := by
  simp [execDoForce, h, done, latchSequence, laserDisable, latchFault, forceError, State.setSignals, State.setSafety,
    State.setLatchQ, State.emit, State.setEvents, State.setResult]

/-- DO_FORCE latches the fault with the laser off and every latch in fault (rule R258). -/
theorem execDoForce_inv (h : Inv s) : AnswerInv (execDoForce s) := by
  by_cases hp : s.signals.forcePending = true
  · rw [execDoForce_pending hp]
    exact .next { h with latched := fun _ => ⟨rfl, by simp⟩, queue := ⟨h.queue.1, by simp⟩ }
  · unfold execDoForce
    rw [if_neg hp]
    exact .refused

theorem execFlAppend_inv (h : Inv s) (hw : s.cfg.wf = true) (code flags : Half) (msg : List Byte) (now : Word) :
    AnswerInv (execFlAppend code flags msg now s) := by
  unfold execFlAppend
  split
  · split
    · exact .next (h.appendRecord hw _ now)
    · exact .fault
  · exact .refused

/-- LOG_WRITE takes the head off the queue, then appends it (rule R350). -/
theorem execLogWrite_inv (h : Inv s) (hw : s.cfg.wf = true) (now : Word) : AnswerInv (execLogWrite now s) := by
  unfold execLogWrite
  split
  · split
    · exact .refused
    · rename_i r rest hq
      have hrest : Inv (s.setLogq rest) :=
        { h with queue := ⟨Nat.le_trans (by simp [hq]) h.queue.1, h.queue.2⟩ }
      split
      · exact .next (hrest.appendRecord hw r now)
      · exact .fault
  · exact .refused

theorem execFlReadLastN_inv (h : Inv s) (hw : s.cfg.wf = true) (n maxOut : Half) :
    AnswerInv (execFlReadLastN n maxOut s) := by
  unfold execFlReadLastN
  split
  · exact .done (h.flBegin.readBack hw _)
  · exact .refused

theorem execFlCountValid_inv (h : Inv s) (hw : s.cfg.wf = true) : AnswerInv (execFlCountValid s) := by
  unfold execFlCountValid
  split
  · exact .done (h.flBegin.countValid hw _ _)
  · exact .refused

theorem execSwRead_inv (h : Inv s) (var : Byte) : AnswerInv (execSwRead var s) := by
  unfold execSwRead
  split
  · split
    · exact .done h.outside
    · split
      · exact .done h.outside
      · exact .refused
  · exact .refused

/-- Every instruction keeps the invariant, in an admitted configuration whose parser buffer holds a command. -/
theorem exec_inv (h : Inv s) (hw : s.cfg.wf = true) (hb : 2 ≤ s.cfg.fpBufLen) (i : Instr) : AnswerInv (exec i s) := by
  cases i with
  | frameReadReq link _ | frameReadReply link _ _ | frameWrite link _ _ | frameAck link _ _ =>
    exact receiveFrame_inv h hw hb link _
  | logRecord _ _ _ _ _ _ => exact .refused
  | coldReset | powerLoss => exact .next (volatileReset_inv hw)
  | scanStart raw now => exact execScanStart_inv h hw raw now
  | scanTick raw now => exact execScanTick_inv h hw raw now
  | thermalSample temp fl raw32 => exact execThermalSample_inv h temp fl raw32
  | setBypass v => exact execSetBypass_inv h v
  | btnEdge now => exact execBtnEdge_inv h now
  | reqReset | reqForce => exact .done h.outside
  | doReset => exact execDoReset_inv h
  | doForce => exact execDoForce_inv h
  | rbPut _ b => exact .onClaimed h fun _ hl => .done (h.setLink (ringPut_linkOk hw b hl))
  | rbGet _ => exact .onClaimed h fun _ hl => .done (h.setLink (ringGet_linkOk hl))
  | rbWrite _ bytes => exact .onClaimed h fun _ hl => .done (h.setLink (ringWrite_linkOk hw bytes hl))
  | ldRxByte _ b => exact .onClaimed h fun _ hl => .done (h.setLink (rxByte_linkOk hw b hl))
  | fpFeed _ b => exact .onLink h fun _ hl => .done (h.setLink (fpFeed_linkOk hb b hl))
  | ldPoll _ => exact .onClaimed h fun _ hl => .done (h.setLink (pollLink_linkOk hb hl)).outside
  | ldWriteU16 _ _ _ | ldReadU16 _ _ => exact .onLink h fun _ _ => .next (sendFrame_inv h _ _ _)
  | ldSend link cmd var hasValue value => exact execLdSend_inv h link cmd var hasValue value
  | flInit => exact .next (h.initLog hw).outside
  | flAppend code flags msg now => exact execFlAppend_inv h hw code flags msg now
  | flReadLastN n maxOut => exact execFlReadLastN_inv h hw n maxOut
  | flCountValid => exact execFlCountValid_inv h hw
  | logWrite now => exact execLogWrite_inv h hw now
  | swRead var => exact execSwRead_inv h var

/-- Taking an input off the inbox and noting its time keeps the invariant, so a step keeps it as the instruction, or the
bytes at a UART, do. -/
theorem step_inv {t : State} (h : Inv s) (hw : s.cfg.wf = true) (hb : 2 ≤ s.cfg.fpBufLen) (hstep : step s = .next t) :
    Inv t := by
  rcases step_cases hstep with ⟨-, rfl⟩ | ⟨x, rest, i, -, -, -, he⟩ | ⟨link, bytes, rest, -, hr⟩
  · exact h
  · refine exec_inv h.outside ?_ ?_ i t he
    exacts [hw, hb]
  · refine receiveFrame_inv h.outside ?_ ?_ link bytes t hr
    exacts [hw, hb]

end

end Sys2Proof.Machine

namespace Sys2Proof.Proofs

open Sys2Proof Sys2Proof.Machine

/-- Settles O58: from `step_inv`, by what each instruction does to the parts of the state. -/
theorem stepKeepsInvariant : Obligations.StepKeepsInvariant :=
  fun _ _ hw hb h hstep => step_inv h hw hb hstep

/-- Settles O20: the whole state after the five rules is `runRules_eq`; rule 3 has acted exactly if it raised the sticky
flag. -/
theorem scanTickFrame : Obligations.ScanTickFrame := by
  intro s raw now hstarted hready
  refine ⟨_, execScanTick_ready hstarted hready, ?_⟩
  rw [runRules_eq]
  have hact3 : (((snapshot raw now s).safety.faultLatched || ruleThreeActsAfter now (snapshot raw now s))
      && !s.safety.faultLatched) = ruleThreeActsAfter now (snapshot raw now s) := ruleThreeActsAfter_eq now _
  simp only [State.setResult, hact3]
  rfl

/-- Settles O7: the invariant follows from the reset table. -/
theorem resetStateMeetsInvariants : Obligations.ResetStateMeetsInvariants := by
  have htable : resetTable State.reset := resetWith_table Config.default
  have hwf : State.reset.cfg.wf = true := by decide
  exact ⟨htable, rfl, hwf, by decide, inv_of_resetTable (Config.wf_debounceN hwf) htable, Memory.wf_nil⟩

end Sys2Proof.Proofs
end

section
/-! The NVM and its canonical form (log entry 4): every operation but an append leaves the NVM as it is (rule R87), and
an append changes it only by the transactions of rules R84 and R85, which keep the form. -/

namespace Sys2Proof.Machine

/-! ## The operations that leave the NVM as it is -/

theorem hysteresis_nvm (temp : Half) (fl : Byte) (s : State) : (hysteresis temp fl s).nvm = s.nvm := by
  rcases hysteresis_cases temp fl s with ⟨h, -, -⟩ | ⟨-, -, h⟩ | ⟨-, -, h⟩ <;> rw [h]
  rw [raise_overUnderTemp]

theorem runRules_nvm (now : Word) (s : State) : (runRules now s).nvm = s.nvm := by
  rw [runRules_eq]

theorem evaluate_nvm (now : Word) (s : State) : (evaluate now s).nvm = s.nvm := by
  unfold evaluate
  split
  · exact runRules_nvm now s
  · rfl

theorem sendFrame_nvm (cmd var : Byte) (value : Option Half) (s : State) :
    (sendFrame cmd var value s).nvm = s.nvm := by
  rw [sendFrame_eq]

/-! The walks over the log read only (rules R335, R352, R355), in every configuration. -/

theorem findEmpty_nvm (ks : List Nat) (s : State) : (findEmpty ks s).2.nvm = s.nvm := by
  obtain ⟨n, -, hreads, -⟩ := findEmpty_spec ks s
  exact hreads.nvm

theorem findNewest_nvm (ks : List Nat) (s : State) : (findNewest ks s).2.nvm = s.nvm := by
  induction ks generalizing s with
  | nil => rfl
  | cons k ks ih =>
    rcases s.draws.nvmAnswer.ok_or_fail with h | h
    · simp only [findNewest, nvmRead_ok h]
      split
      · rfl
      · exact ih _
    · simp only [findNewest, nvmRead_fail h]

theorem readBack_nvm (ks : List Nat) (s : State) : (readBack ks s).2.nvm = s.nvm := by
  induction ks generalizing s with
  | nil => rfl
  | cons k ks ih =>
    rcases s.draws.nvmAnswer.ok_or_fail with h | h
    · simp only [readBack, nvmRead_ok h]
      split
      · exact ih _
      · rfl
    · simp only [readBack, nvmRead_fail h, flFail_nvm]

theorem countValid_nvm (ks : List Nat) (n : Nat) (s : State) : (countValid ks n s).2.nvm = s.nvm := by
  induction ks generalizing n s with
  | nil => rfl
  | cons k ks ih =>
    rcases s.draws.nvmAnswer.ok_or_fail with h | h
    · simp only [countValid, nvmRead_ok h]
      exact ih _ _
    · simp only [countValid, nvmRead_fail h, flFail_nvm]

theorem initLog_nvm (s : State) : (initLog s).nvm = s.nvm := by
  have hempty := findEmpty_nvm (List.range (capacity s.cfg)) (flBegin s)
  unfold initLog
  split
  · rename_i t he
    rw [he] at hempty
    exact hempty
  · rename_i e t he
    rw [he] at hempty
    have hnewest := (findNewest_nvm (slotsBefore t.cfg (e.getD 0) (capacity t.cfg)) t).trans hempty
    split
    · rename_i u hn
      rw [hn] at hnewest
      exact hnewest
    · rename_i q u hn
      rw [hn] at hnewest
      exact hnewest

/-! ## The transactions and the steps of an append keep the canonical form -/

section
variable {s : State}

/-- A program stores a byte string, whatever its outcome (rule R84). -/
theorem nvmProgram_wf (h : s.nvm.wf) (addr : Nat) (bytes : List Byte) : (nvmProgram addr bytes s).2.nvm.wf := by
  rcases s.draws.nvmAnswer.ok_or_fail with hok | hfail
  · rw [nvmProgram_ok hok]
    exact Memory.wf_writeN h _ _
  · obtain ⟨n, d, heq⟩ := nvmProgram_fail (addr := addr) (bs := bytes) hfail
    rw [heq]
    exact Memory.wf_writeN h _ _

/-- An erase fills its sector, or stores free values in it (rule R85). -/
theorem nvmErase_wf (h : s.nvm.wf) (n : Nat) : (nvmErase n s).2.nvm.wf := by
  rcases s.draws.nvmAnswer.ok_or_fail with hok | hfail
  · rw [nvmErase_ok hok]
    exact Memory.wf_fill h _ _ _
  · obtain ⟨bs, d, -, heq⟩ := nvmErase_fail (n := n) hfail
    rw [heq]
    exact Memory.wf_writeN h _ _

/-- After the commit program the append fails, is cut, or advances: none of the three touches the NVM (rules R334,
R343, R345, R346). -/
theorem appendCommit_wf (h : s.nvm.wf) (cut : Option CutPoint) : (appendCommit cut s).nvm.wf := by
  have hprogram := nvmProgram_wf h (commitAddr s.cfg s.flash.cursor) [s.cfg.commitVal]
  unfold appendCommit
  split
  · rename_i t heq
    rw [heq] at hprogram
    exact hprogram
  · rename_i t heq
    rw [heq] at hprogram
    split
    · exact hprogram
    · exact hprogram

theorem appendBody_wf (h : s.nvm.wf) (cut : Option CutPoint) (r : LogRequest) (now : Word) :
    (appendBody cut r now s).nvm.wf := by
  have hprogram := nvmProgram_wf h (slotAddr s.cfg s.flash.cursor) (recordBody s.cfg s.flash.nextSeq now r)
  unfold appendBody
  split
  · rename_i t heq
    rw [heq] at hprogram
    exact hprogram
  · rename_i t heq
    rw [heq] at hprogram
    split
    · exact hprogram
    · exact appendCommit_wf (s := setPhase .bodyDone t) hprogram cut

theorem appendErase_wf (h : s.nvm.wf) (cut : Option CutPoint) (r : LogRequest) (now : Word) :
    (appendErase cut r now s).nvm.wf := by
  have herase := nvmErase_wf h (sectorOf s.cfg s.flash.cursor)
  unfold appendErase
  split
  · split
    · rename_i t heq
      rw [heq] at herase
      exact herase
    · rename_i t heq
      rw [heq] at herase
      split
      · exact herase
      · exact appendBody_wf (s := setPhase .erased t) herase cut r now
  · exact appendBody_wf h cut r now

/-- Drawing the cut and setting the status come before the erase step and leave the NVM. -/
theorem appendRecord_wf (h : s.nvm.wf) (r : LogRequest) (now : Word) : (appendRecord r now s).nvm.wf :=
  appendErase_wf (s := flBegin (drawCut s).2) h _ r now

end

/-! ## The instructions -/

/-- All that an operation can do to the NVM (rule R87): nothing, or what one append does, made by FL_APPEND or, with the
queue shortened, by LOG_WRITE. -/
inductive KeepsOrAppends (s t : State) : Prop
  | kept (h : t.nvm = s.nvm)
  | appended (r : LogRequest) (now : Word) (q : List LogRequest) (h : t = appendRecord r now (s.setLogq q))

theorem KeepsOrAppends.wf {s t : State} (h : KeepsOrAppends s t) (hs : s.nvm.wf) : t.nvm.wf := by
  cases h with
  | kept h =>
    rw [h]
    exact hs
  | appended r now q h =>
    rw [h]
    exact appendRecord_wf (s := s.setLogq q) hs r now

/-- If the answer is a next state, its NVM is that of `s` or what one append makes of it. -/
def AnswerKeepsOrAppends (s : State) (o : Host.Outcome State Fault Refusal) : Prop :=
  ∀ t, o = .next t → KeepsOrAppends s t

theorem AnswerKeepsOrAppends.next {s t : State} (h : KeepsOrAppends s t) : AnswerKeepsOrAppends s (.next t) := by
  rintro _ ⟨⟩
  exact h

theorem AnswerKeepsOrAppends.fault {s : State} {r : Fault} : AnswerKeepsOrAppends s (.fault r) :=
  fun _ h => nomatch h

theorem AnswerKeepsOrAppends.refused {s : State} {r : Refusal} : AnswerKeepsOrAppends s (.refused r) :=
  fun _ h => nomatch h

/-- An operation that is complete with the NVM as it was. -/
theorem AnswerKeepsOrAppends.done {s t : State} {r : OpResult} (h : t.nvm = s.nvm) :
    AnswerKeepsOrAppends s (Machine.done r t) :=
  .next (.kept h)

/-- An operation on a link runs on that link, or is refused (rule R142). -/
theorem AnswerKeepsOrAppends.onLink {link : Byte} {s : State} {f : Link → Host.Outcome State Fault Refusal}
    (h : ∀ l, AnswerKeepsOrAppends s (f l)) : AnswerKeepsOrAppends s (Machine.onLink link s f) := by
  unfold Machine.onLink
  split
  · exact h _
  · exact .refused

/-- An operation on a ring buffer runs on its link, claimed, or is refused (rules R275, R441). -/
theorem AnswerKeepsOrAppends.onClaimed {link : Byte} {u : RingUser} {r : Refusal} {s : State}
    {f : Link → Host.Outcome State Fault Refusal} (h : ∀ l, AnswerKeepsOrAppends s (f l)) :
    AnswerKeepsOrAppends s (Machine.onLink link s fun l =>
      match claimRing u l with
      | none => .refused r
      | some l => f l) := by
  refine .onLink fun l => ?_
  cases claimRing u l with
  | none => exact .refused
  | some l => exact h l

/-- Bytes at a UART reach a link and the event trace only (rules R311 to R313). -/
theorem receiveFrame_keepsOrAppends (link : Byte) (bytes : List Byte) (s : State) :
    AnswerKeepsOrAppends s (receiveFrame link bytes s) :=
  .onClaimed fun _ => .done rfl

theorem execLdSend_keepsOrAppends (link cmd var : Byte) (hasValue : Bool) (value : Half) (s : State) :
    AnswerKeepsOrAppends s (execLdSend link cmd var hasValue value s) := by
  refine .onLink fun _ => ?_
  split
  · exact .next (.kept (sendFrame_nvm _ _ _ _))
  · exact .refused

theorem execScanStart_keepsOrAppends (raw : List Byte) (now : Word) (s : State) :
    AnswerKeepsOrAppends s (execScanStart raw now s) := by
  unfold execScanStart
  split
  · exact .refused
  · exact .done rfl

/-- A tick queues log requests at most; LOG_WRITE appends them (rules R211, R350). -/
theorem execScanTick_keepsOrAppends (raw : List Byte) (now : Word) (s : State) :
    AnswerKeepsOrAppends s (execScanTick raw now s) := by
  unfold execScanTick
  split
  · exact .done (evaluate_nvm now (snapshot raw now s))
  · exact .refused

theorem execThermalSample_keepsOrAppends (temp : Half) (fl : Byte) (raw32 : Word) (s : State) :
    AnswerKeepsOrAppends s (execThermalSample temp fl raw32 s) := by
  refine .done ?_
  split
  · rfl
  · exact hysteresis_nvm temp fl (publish temp fl raw32 s)

theorem execSetBypass_keepsOrAppends (v : Bool) (s : State) : AnswerKeepsOrAppends s (execSetBypass v s) := by
  refine .done ?_
  split <;> rfl

theorem execBtnEdge_keepsOrAppends (now : Word) (s : State) : AnswerKeepsOrAppends s (execBtnEdge now s) := by
  refine .done ?_
  split <;> rfl

theorem execDoReset_keepsOrAppends (s : State) : AnswerKeepsOrAppends s (execDoReset s) := by
  unfold execDoReset
  split
  · exact .done rfl
  · exact .refused

theorem execDoForce_keepsOrAppends (s : State) : AnswerKeepsOrAppends s (execDoForce s) := by
  unfold execDoForce
  split
  · exact .done rfl
  · exact .refused

theorem execFlAppend_keepsOrAppends (code flags : Half) (msg : List Byte) (now : Word) (s : State) :
    AnswerKeepsOrAppends s (execFlAppend code flags msg now s) := by
  unfold execFlAppend
  split
  · split
    · exact .next (.appended _ now s.logq rfl)
    · exact .fault
  · exact .refused

theorem execLogWrite_keepsOrAppends (now : Word) (s : State) : AnswerKeepsOrAppends s (execLogWrite now s) := by
  unfold execLogWrite
  split
  · split
    · exact .refused
    · rename_i r rest _
      split
      · exact .next (.appended r now rest rfl)
      · exact .fault
  · exact .refused

theorem execFlReadLastN_keepsOrAppends (n maxOut : Half) (s : State) :
    AnswerKeepsOrAppends s (execFlReadLastN n maxOut s) := by
  unfold execFlReadLastN
  split
  · exact .done (readBack_nvm _ (flBegin s))
  · exact .refused

theorem execFlCountValid_keepsOrAppends (s : State) : AnswerKeepsOrAppends s (execFlCountValid s) := by
  unfold execFlCountValid
  split
  · exact .done (countValid_nvm _ _ (flBegin s))
  · exact .refused

theorem execSwRead_keepsOrAppends (var : Byte) (s : State) : AnswerKeepsOrAppends s (execSwRead var s) := by
  unfold execSwRead
  split
  · split
    · exact .done rfl
    · split
      · exact .done rfl
      · exact .refused
  · exact .refused

/-- Every instruction leaves the NVM as it is, or appends one record. -/
theorem exec_keepsOrAppends (i : Instr) (s : State) : AnswerKeepsOrAppends s (exec i s) := by
  cases i with
  | frameReadReq link _ | frameReadReply link _ _ | frameWrite link _ _ | frameAck link _ _ =>
    exact receiveFrame_keepsOrAppends link _ s
  | logRecord _ _ _ _ _ _ => exact .refused
  | coldReset | powerLoss => exact .next (.kept (volatileReset_nvm s))
  | scanStart raw now => exact execScanStart_keepsOrAppends raw now s
  | scanTick raw now => exact execScanTick_keepsOrAppends raw now s
  | thermalSample temp fl raw32 => exact execThermalSample_keepsOrAppends temp fl raw32 s
  | setBypass v => exact execSetBypass_keepsOrAppends v s
  | btnEdge now => exact execBtnEdge_keepsOrAppends now s
  | reqReset | reqForce => exact .done rfl
  | doReset => exact execDoReset_keepsOrAppends s
  | doForce => exact execDoForce_keepsOrAppends s
  | rbPut _ _ | rbGet _ | rbWrite _ _ | ldRxByte _ _ | ldPoll _ => exact .onClaimed fun _ => .done rfl
  | fpFeed _ _ => exact .onLink fun _ => .done rfl
  | ldWriteU16 _ _ _ | ldReadU16 _ _ => exact .onLink fun _ => .next (.kept (sendFrame_nvm _ _ _ _))
  | ldSend link cmd var hasValue value => exact execLdSend_keepsOrAppends link cmd var hasValue value s
  | flInit => exact .next (.kept (initLog_nvm s))
  | flAppend code flags msg now => exact execFlAppend_keepsOrAppends code flags msg now s
  | flReadLastN n maxOut => exact execFlReadLastN_keepsOrAppends n maxOut s
  | flCountValid => exact execFlCountValid_keepsOrAppends s
  | logWrite now => exact execLogWrite_keepsOrAppends now s
  | swRead var => exact execSwRead_keepsOrAppends var s

/-! ## The step -/

/-- Taking an input off the inbox and noting its time leaves the NVM, so a step keeps its form as the instruction, or
the bytes at a UART, do. -/
theorem step_keepsNvmWf {s t : State} (hs : s.nvm.wf) (h : step s = .next t) : t.nvm.wf := by
  rcases step_cases h with ⟨-, rfl⟩ | ⟨x, rest, i, -, -, -, he⟩ | ⟨link, bytes, rest, -, hr⟩
  · exact hs
  · exact (exec_keepsOrAppends i _ t he).wf hs
  · exact (receiveFrame_keepsOrAppends link bytes _ t hr).wf hs

end Sys2Proof.Machine

namespace Sys2Proof.Proofs

open Sys2Proof Sys2Proof.Machine

/-- Settles O57: from `step_keepsNvmWf`; a step changes the NVM by appending a record or not at all, and the
transactions of an append store and fill by operations that keep the canonical form. -/
theorem stepKeepsNvmCanonical : Obligations.StepKeepsNvmCanonical :=
  fun _ _ hs hstep => step_keepsNvmWf hs hstep

end Sys2Proof.Proofs
end

section
/-! The encoder and the decoder are inverse to each other (rules R120, R130, R140, R142): first the operation words,
then the frames, then the record, and from the three the inputs. -/

namespace Sys2Proof

/-! ## Well-formedness -/

/-- The part of well-formedness that is no link: the lengths that an encoding fixes or bounds (rules R130, R140). -/
def Instr.lengthsFit (c : Config) : Instr → Prop
  | .logRecord _ _ _ _ msg _ => msg.length = c.msgLen
  | .scanStart raw _ => raw.length = c.rawLen
  | .scanTick raw _ => raw.length = c.rawLen
  | .rbWrite _ bytes => bytes.length ≤ 255
  | .flAppend _ _ msg _ => msg.length ≤ 255
  | _ => True

/-- Well formed is: the lengths fit, and the link named, if any, exists. -/
theorem Instr.wellFormed_iff {c : Config} {i : Instr} :
    i.wellFormed c = true ↔ i.lengthsFit c ∧ ∀ link, i.link? = some link → c.hasLink link = true := by
  cases i <;> simp [Instr.wellFormed, Instr.lengthsFit, Instr.link?, and_comm]

/-- An instruction whose lengths fit passes the link check exactly if it is well formed. -/
theorem checkLink_eq_ok_iff_wellFormed {c : Config} {i j : Instr} (h : i.lengthsFit c) :
    checkLink c i = .ok j ↔ i = j ∧ j.wellFormed c = true := by
  rw [checkLink_eq_ok, Instr.wellFormed_iff]
  constructor
  · rintro ⟨rfl, hlink⟩
    exact ⟨rfl, h, hlink⟩
  · rintro ⟨rfl, -, hlink⟩
    exact ⟨rfl, hlink⟩

/-! ## Operation words (rule R140) -/

/-- The decoder takes an operation off a string that begins with its encoding, and leaves the rest. -/
theorem decodePrefix_encodeBytes {c : Config} {i : Instr} (hp : i.port = .command) (h : i.lengthsFit c)
    (rest : List Byte) : decodePrefix c (encodeBytes c i ++ rest) = .ok (i, rest) := by
  cases i with
  | frameReadReq _ _ | frameReadReply _ _ _ | frameWrite _ _ _ | frameAck _ _ _ | logRecord _ _ _ _ _ _ => cases hp
  | coldReset | reqReset | reqForce | doReset | doForce | flInit | flCountValid | powerLoss => rfl
  | scanStart raw _ | scanTick raw _ =>
    have hraw : raw.length = c.rawLen := h
    simp [encodeBytes, decodePrefix, takeBytes_append hraw]
  | rbWrite _ text | flAppend _ _ text _ =>
    have htext : text.length ≤ 255 := h
    simp [encodeBytes, decodePrefix, takeString_lenPrefixed htext]
  | thermalSample _ _ _ | setBypass _ | btnEdge _ | rbPut _ _ | rbGet _ | fpFeed _ _ | ldRxByte _ _ | ldPoll _
  | ldWriteU16 _ _ _ | ldReadU16 _ _ | ldSend _ _ _ _ _ | flReadLastN _ _ | logWrite _ | swRead _ =>
    simp [encodeBytes, decodePrefix]

/-- The byte of a given value. -/
theorem byte_eq_of_toNat_eq {b : Byte} {n : Nat} (h : b.toNat = n) : b = BitVec.ofNat 8 n := by
  rw [← h, BitVec.ofNat_toNat, BitVec.setWidth_eq]

/-- What the decoder takes off a string is an operation whose lengths fit, and the string begins with its encoding. The
cases are the decoder's arms in their order, one for each opcode of rule R140 and the last for every other byte,
together where the operand lists are alike. -/
theorem decodePrefix_eq_ok {c : Config} {bytes rest : List Byte} {i : Instr}
    (h : decodePrefix c bytes = .ok (i, rest)) :
    i.port = .command ∧ i.lengthsFit c ∧ bytes = encodeBytes c i ++ rest := by
  cases bytes with
  | nil => cases h
  | cons op bs =>
    simp only [decodePrefix] at h
    split at h
    case h_27 => cases h
    all_goals
      rename_i hop
      obtain rfl := byte_eq_of_toNat_eq hop
      simp only [needOperands_eq_ok, Option.bind_eq_bind, Option.bind_eq_some_iff, Option.pure_def, Option.some.injEq,
        Except.ok.injEq, Prod.exists, Prod.mk.injEq, takeU8_eq_some, takeBit_eq_some, takeU16_eq_some, takeU32_eq_some,
        takeBytes_eq_some, takeString_eq_some] at h
    -- no operands
    case h_1 | h_7 | h_8 | h_9 | h_10 | h_20 | h_23 | h_26 =>
      obtain ⟨rfl, rfl⟩ := h
      exact ⟨rfl, trivial, rfl⟩
    -- a raw sample and a time
    case h_2 | h_3 =>
      obtain ⟨raw, _, ⟨rfl, hraw⟩, now, _, rfl, rfl, rfl⟩ := h
      exact ⟨rfl, hraw, by simp [encodeBytes]⟩
    -- byte strings with their length before them
    case h_13 =>
      obtain ⟨link, _, rfl, bytes, _, ⟨rfl, hbytes⟩, rfl, rfl⟩ := h
      exact ⟨rfl, hbytes, rfl⟩
    case h_21 =>
      obtain ⟨code, _, rfl, flags, _, rfl, msg, _, ⟨rfl, hmsg⟩, now, _, rfl, rfl, rfl⟩ := h
      exact ⟨rfl, hmsg, by simp [encodeBytes]⟩
    -- one operand of a fixed length, then two, three and five
    case h_5 | h_6 | h_12 | h_16 | h_24 | h_25 =>
      obtain ⟨_, _, rfl, rfl, rfl⟩ := h
      exact ⟨rfl, trivial, rfl⟩
    case h_11 | h_14 | h_15 | h_18 | h_22 =>
      obtain ⟨_, _, rfl, _, _, rfl, rfl, rfl⟩ := h
      exact ⟨rfl, trivial, rfl⟩
    case h_4 | h_17 =>
      obtain ⟨_, _, rfl, _, _, rfl, _, _, rfl, rfl, rfl⟩ := h
      exact ⟨rfl, trivial, rfl⟩
    case h_19 =>
      obtain ⟨_, _, rfl, _, _, rfl, _, _, rfl, _, _, rfl, _, _, rfl, rfl, rfl⟩ := h
      exact ⟨rfl, trivial, rfl⟩

/-- An operation word decodes to the well-formed operation it is the encoding of, and to nothing else. -/
theorem decodeCommand_eq_ok {c : Config} {bytes : List Byte} {i : Instr} :
    decodeCommand c bytes = .ok i ↔ i.port = .command ∧ i.wellFormed c = true ∧ encodeBytes c i = bytes := by
  constructor
  · intro h
    unfold decodeCommand at h
    split at h
    · cases h
    · rename_i j hj
      obtain ⟨hport, hfit, rfl⟩ := decodePrefix_eq_ok hj
      obtain ⟨rfl, hwf⟩ := (checkLink_eq_ok_iff_wellFormed hfit).1 h
      exact ⟨hport, hwf, (List.append_nil _).symm⟩
    · cases h
  · rintro ⟨hport, hwf, rfl⟩
    have hfit := (Instr.wellFormed_iff.1 hwf).1
    have hfirst := decodePrefix_encodeBytes hport hfit []
    rw [List.append_nil] at hfirst
    simp only [decodeCommand, hfirst]
    exact (checkLink_eq_ok_iff_wellFormed hfit).2 ⟨rfl, hwf⟩

/-! ## Frames (rule R120) -/

/-- In an admitted configuration the commands differ (rule R121). -/
theorem Config.wf_commands {c : Config} (h : c.wf = true) :
    c.cmdRead ≠ c.cmdWrite ∧ c.cmdRead ≠ c.cmdAck ∧ c.cmdWrite ≠ c.cmdAck := by
  simp only [Config.wf, Bool.and_eq_true, bne_iff_ne] at h
  obtain ⟨⟨⟨⟨⟨⟨-, hrw⟩, hra⟩, hwa⟩, -⟩, -⟩, -⟩ := h
  exact ⟨hrw, hra, hwa⟩

/-- A frame at an existing link decodes to the instruction it is the encoding of. -/
theorem decodeFrame_encodeBytes {c : Config} (hc : c.wf = true) {i : Instr} {link : Byte} (hp : i.port = .uart link)
    (h : i.wellFormed c = true) : decodeFrame c link (encodeBytes c i) = .ok i := by
  obtain ⟨hrw, hra, hwa⟩ := Config.wf_commands hc
  cases i
  case frameReadReq k _ | frameReadReply k _ _ | frameWrite k _ _ | frameAck k _ _ =>
    obtain rfl : k = link := by cases hp; rfl
    have hlink : c.hasLink k = true := h
    simp [encodeBytes, frameBytes, le16, decodeFrame, checkLink, Instr.link?, hlink, hrw.symm, hra.symm, hwa.symm]
  all_goals cases hp

/-- What bytes at a UART decode to is well formed, arrives at that UART, and has them for its encoding. -/
theorem decodeFrame_eq_ok {c : Config} {link : Byte} {bytes : List Byte} {i : Instr}
    (h : decodeFrame c link bytes = .ok i) :
    i.port = .uart link ∧ i.wellFormed c = true ∧ encodeBytes c i = bytes := by
  unfold decodeFrame at h
  split at h
  · split at h
    · rename_i hframe
      obtain ⟨rfl, rfl, rfl⟩ := hframe
      obtain ⟨rfl, hwf⟩ := (checkLink_eq_ok_iff_wellFormed (by trivial)).1 h
      exact ⟨rfl, hwf, rfl⟩
    · cases h
  · split at h
    · rename_i hframe
      obtain ⟨rfl, rfl⟩ := hframe
      split_ifs at h with hread hwrite hack
      all_goals
        subst_vars
        obtain ⟨rfl, hwf⟩ := (checkLink_eq_ok_iff_wellFormed (by trivial)).1 h
        exact ⟨rfl, hwf, by simp [encodeBytes, frameBytes, le16]⟩
    · cases h
  · cases h

/-! ## Records (rule R130) -/

/-- A record image decodes to the record it is the encoding of. -/
theorem decodeRecord_encodeBytes {c : Config} {i : Instr} (hp : i.port = .nvm) (h : i.wellFormed c = true) :
    decodeRecord c (encodeBytes c i) = .ok i := by
  cases i
  case logRecord seq ms code flags msg commit =>
    have hmsg : msg.length = c.msgLen := (Instr.wellFormed_iff.1 h).1
    simp [encodeBytes, decodeRecord, takeBytes_append hmsg]
  all_goals cases hp

/-- What bytes at the NVM decode to is a well-formed record, and has them for its encoding. -/
theorem decodeRecord_eq_ok {c : Config} {bytes : List Byte} {i : Instr} (h : decodeRecord c bytes = .ok i) :
    i.port = .nvm ∧ i.wellFormed c = true ∧ encodeBytes c i = bytes := by
  unfold decodeRecord at h
  split at h
  · rename_i j hj
    cases h
    simp only [Option.bind_eq_bind, Option.bind_eq_some_iff, Prod.exists, Option.ite_none_right_eq_some,
      Option.some.injEq, takeU8_eq_some, takeU16_eq_some, takeU32_eq_some, takeBytes_eq_some] at hj
    obtain ⟨seq, _, rfl, ms, _, rfl, code, _, rfl, flags, _, rfl, msg, _, ⟨rfl, hmsg⟩, commit, _, rfl, rfl, rfl⟩ :=
      hj
    exact ⟨rfl, by simpa [Instr.wellFormed] using hmsg, by simp [encodeBytes]⟩
  · cases h

/-! ## Inputs -/

/-- Every well-formed instruction is read back from the input that stands for it. -/
theorem decodeInput_encode {c : Config} (hc : c.wf = true) {i : Instr} (h : i.wellFormed c = true) :
    decodeInput c (encode c i) = .ok i := by
  unfold decodeInput encode
  cases hp : i.port with
  | command => exact decodeCommand_eq_ok.2 ⟨hp, h, rfl⟩
  | uart link => exact decodeFrame_encodeBytes hc hp h
  | nvm => exact decodeRecord_encodeBytes hp h

/-- An input that decodes is the encoding of a well-formed instruction, the one it decodes to. -/
theorem encode_of_decodeInput {c : Config} {x : Input} {i : Instr} (h : decodeInput c x = .ok i) :
    i.wellFormed c = true ∧ encode c i = x := by
  obtain ⟨port, bytes⟩ := x
  have hdecoded : i.port = port ∧ i.wellFormed c = true ∧ encodeBytes c i = bytes := by
    cases port with
    | command => exact decodeCommand_eq_ok.1 h
    | uart link => exact decodeFrame_eq_ok h
    | nvm => exact decodeRecord_eq_ok h
  obtain ⟨rfl, hwf, rfl⟩ := hdecoded
  exact ⟨hwf, rfl⟩

end Sys2Proof

namespace Sys2Proof.Machine

/-! ## Bytes at a UART as operations (rules R126, R128, R311, R312) -/

section
variable {s : State} {link : Byte} {l : Link}

/-- Bytes at a link that the Host does not drive: they are queued, then the link is polled (log entry 7). -/
theorem receiveFrame_eq (hl : s.links[link.toNat]? = some l) (hu : l.user = none ∨ l.user = some .driver)
    (bytes : List Byte) :
    receiveFrame link bytes s =
      (let r := pollLink s.cfg (roleOf s.cfg link.toNat)
          (bytes.foldl (fun l b => rxByte s.cfg b l) { l with user := some .driver })
       done .nothing ((s.setLink link.toNat r.1).emitAll r.2)) := by
  rw [receiveFrame, onLink_eq hl, claimRing_eq_some hu]

/-- LD_RX_BYTE on such a link. -/
theorem execLdRxByte_eq (hl : s.links[link.toNat]? = some l) (hu : l.user = none ∨ l.user = some .driver) (b : Byte) :
    exec (.ldRxByte link b) s
      = done .nothing (s.setLink link.toNat (rxByte s.cfg b { l with user := some .driver })) := by
  change execLdRxByte link b s = _
  rw [execLdRxByte, onLink_eq hl, claimRing_eq_some hu]

/-- LD_POLL on such a link is the arrival of no byte. -/
theorem execLdPoll_eq_receiveFrame (hl : s.links[link.toNat]? = some l)
    (hu : l.user = none ∨ l.user = some .driver) : exec (.ldPoll link) s = receiveFrame link [] s := by
  change execLdPoll link s = _
  rw [receiveFrame_eq hl hu, execLdPoll, onLink_eq hl, claimRing_eq_some hu]
  rfl

/-- Queueing a byte writes no user. -/
theorem rxByte_user (c : Config) (b : Byte) (l : Link) : (rxByte c b l).user = l.user := by
  by_cases h : ringCount l = c.rbN
  · simp [rxByte, ringPut_full h]
  · simp [rxByte, ringPut_room h]

end

/-- LD_RX_BYTE of each byte in order, then LD_POLL, is their arrival in one input. -/
theorem execAll_rxBytes_poll (bytes : List Byte) {s : State} {link : Byte} {l : Link}
    (hl : s.links[link.toNat]? = some l) (hu : l.user = none ∨ l.user = some .driver) :
    execAll (bytes.map (fun b => Instr.ldRxByte link b) ++ [.ldPoll link]) s = receiveFrame link bytes s := by
  induction bytes generalizing s l with
  | nil =>
    simp only [List.map_nil, List.nil_append, execAll]
    rw [execLdPoll_eq_receiveFrame hl hu, receiveFrame_eq hl hu]
    rfl
  | cons b bs ih =>
    let l' := rxByte s.cfg b { l with user := some .driver }
    let s' := (s.setLink link.toNat l').setResult .nothing
    have hl' : s'.links[link.toNat]? = some l' := by
      have := (List.getElem?_eq_some_iff.1 hl).1
      simp [s', this]
    have hu' : l'.user = some .driver := rxByte_user _ _ _
    have hself : { l' with user := some .driver } = l' := by rw [← hu']
    calc execAll ((b :: bs).map (fun b => Instr.ldRxByte link b) ++ [.ldPoll link]) s
      _ = execAll (bs.map (fun b => Instr.ldRxByte link b) ++ [.ldPoll link]) s' := by
        simp only [List.map_cons, List.cons_append, execAll, execLdRxByte_eq hl hu]
        rfl
      _ = receiveFrame link bs s' := ih hl' (.inr hu')
      _ = receiveFrame link (b :: bs) s := by
        rw [receiveFrame_eq hl' (.inr hu'), receiveFrame_eq hl hu, hself]
        simp [s', l', done, State.setLink, State.emitAll, State.setLinks, State.setResult, State.setEvents]

/-- On a link that the Host does not drive, bytes at its UART answer a next state, and their operations the same. -/
theorem receiveFrame_next_and_execAll {s : State} {link : Byte} {l : Link} (hl : s.links[link.toNat]? = some l)
    (hu : l.user = none ∨ l.user = some .driver) (bytes : List Byte) :
    ∃ t, receiveFrame link bytes s = .next t
      ∧ execAll (bytes.map (fun b => Instr.ldRxByte link b) ++ [.ldPoll link]) s = .next t := by
  rw [execAll_rxBytes_poll bytes hl hu, receiveFrame_eq hl hu]
  exact ⟨_, rfl, rfl⟩

end Sys2Proof.Machine

namespace Sys2Proof.Proofs

open Sys2Proof Sys2Proof.Machine

/-- Settles O3: `decodeInput_encode`, port by port. -/
theorem encodedInstructionDecodesBack : Obligations.EncodedInstructionDecodesBack := by
  intro c i hc hi
  exact decodeInput_encode hc hi

/-- Settles O4: `encode_of_decodeInput`, port by port, in every configuration. -/
theorem decodedInputEncodesBack : Obligations.DecodedInputEncodesBack := by
  intro c x i h
  exact encode_of_decodeInput h

/-- Settles O2: an operation word that decoded would be an encoding, so it does not, and is refused. -/
theorem malformedOperationWordIsRefused : Obligations.MalformedOperationWordIsRefused := by
  intro s bytes rest hinbox hno
  cases hd : decodeInput s.cfg ⟨.command, bytes⟩ with
  | ok i =>
    obtain ⟨hport, hwf, hbytes⟩ := decodeCommand_eq_ok.1 hd
    exact absurd hbytes (hno i hwf hport)
  | error e =>
    refine ⟨e, ?_⟩
    rw [step_undecoded hinbox hd]
    exact receiveUndecoded_refused _ (.inr nofun)

/-- Settles O38: each of the four frames, and bytes that are no frame, are the arrival of their bytes
(`receiveFrame_next_and_execAll`). -/
theorem frameIsItsBytesThenPoll : Obligations.FrameIsItsBytesThenPoll := by
  intro s link var value l hl hu arrive six
  have harrive := receiveFrame_next_and_execAll hl hu
  refine ⟨harrive _, harrive _, harrive _, harrive _, ?_⟩
  intro bytes rest hinbox hd
  rw [step_undecoded hinbox hd]
  exact receiveFrame_next_and_execAll (s := { s with inbox := rest }) hl hu bytes

/-- Settles O5: each word runs through the decoder. -/
theorem specWordsDecode : Obligations.SpecWordsDecode := by
  unfold Obligations.SpecWordsDecode
  decide

end Sys2Proof.Proofs
end

section
/-! The input scanner: what each of its operations answers (rules R171, R177, R378), what one tick does to each input
and to the events (rules R172 to R175), and over a run of ticks the debounce law (rule R178). -/

namespace Sys2Proof.Machine

/-! ## Before and after SCAN_START (rules R171, R177, R378) -/

section
variable {s : State}

theorem execScanStart_of_idle (h : s.scan.started = false) (raw : List Byte) (now : Word) :
    exec (.scanStart raw now) s = done .nothing (s.setScan
      ⟨(List.range s.cfg.nin).map (rawBit raw), List.replicate s.cfg.nin 0, true, false, now⟩) := by
  simp [exec, execScanStart, h]

theorem execScanStart_of_started (h : s.scan.started = true) (raw : List Byte) (now : Word) :
    exec (.scanStart raw now) s = .refused .scanAlreadyStarted := by
  simp [exec, execScanStart, h]

theorem execScanTick_of_idle (h : s.scan.started = false) (raw : List Byte) (now : Word) :
    exec (.scanTick raw now) s = .refused .scanNotStarted := by
  simp [exec, execScanTick, h]

theorem execSwRead_of_idle (h : s.scan.started = false) (var : Byte) :
    exec (.swRead var) s = .refused .scanNotStarted := by
  simp [exec, execSwRead, h]

end

/-! ## One sample of one input (rules R172, R173): it agrees, it is counted, or it is committed -/

section
variable {n cnt : Nat} {raw st : Bool}

theorem debounceOne_agree (h : raw = st) : debounceOne n raw st cnt = (st, 0, false) := by
  simp [debounceOne, h]

theorem debounceOne_count (h : raw ≠ st) (hn : cnt + 1 ≠ n) : debounceOne n raw st cnt = (st, cnt + 1, false) := by
  simp [debounceOne, h, hn]

theorem debounceOne_commit (h : raw ≠ st) (hn : cnt + 1 = n) : debounceOne n raw st cnt = (raw, 0, true) := by
  simp [debounceOne, h, hn]

theorem debounceOne_committed_iff : (debounceOne n raw st cnt).2.2 = true ↔ raw ≠ st ∧ cnt + 1 = n := by
  by_cases h : raw = st
  · rw [debounceOne_agree h]
    simp [h]
  · by_cases hn : cnt + 1 = n
    · simp [debounceOne_commit h hn, h, hn]
    · simp [debounceOne_count h hn, hn]

end

/-! ## The events of a tick (rule R174) -/

theorem mem_changeEvents {raw : List Byte} {s : State} {e : Event} :
    e ∈ changeEvents raw s ↔ ∃ i < s.cfg.nin, rawBit raw i ≠ s.st i ∧ s.cnt i + 1 = s.cfg.debounceN
      ∧ e = .change i (rawBit raw i) := by
  simp only [changeEvents, List.mem_filterMap, List.mem_range, Option.ite_none_right_eq_some, Option.some.injEq,
    debounceAt, debounceOne_committed_iff, and_assoc, eq_comm (b := e)]

theorem changeEvents_isChange {raw : List Byte} {s : State} : ∀ e ∈ changeEvents raw s, e.isChange = true := by
  intro e he
  obtain ⟨i, -, -, -, rfl⟩ := mem_changeEvents.1 he
  rfl

/-- Each input has its own CHANGE event. -/
theorem changeEvents_nodup (raw : List Byte) (s : State) : (changeEvents raw s).Nodup := by
  refine List.nodup_range.filterMap fun i j e hi hj => ?_
  simp only [Option.mem_def, Option.ite_none_right_eq_some, Option.some.injEq] at hi hj
  obtain ⟨-, rfl⟩ := hi
  obtain ⟨-, hj⟩ := hj
  exact (Event.change.inj hj).1.symm

/-- A tick leaves the scanner of its snapshot, and emits its CHANGE events before every other event. -/
theorem execScanTick_events (raw : List Byte) (now : Word) {s : State} (h : s.scan.started = true) :
    ∃ t others, exec (.scanTick raw now) s = .next t ∧ t.scan = (snapshot raw now s).scan
      ∧ t.events = s.events ++ changeEvents raw s ++ others ∧ ∀ e ∈ others, e.isChange = false := by
  obtain ⟨t, ht, hscan, -, ⟨-, rfl⟩ | ⟨-, rfl⟩⟩ := execScanTick_cases raw now h
  · refine ⟨_, ruleEvents now (snapshot raw now s), ht, hscan, ?_, ruleEvents_notChange _ _⟩
    rw [runRules_eq]
    rfl
  · exact ⟨_, [], ht, hscan, (List.append_nil _).symm, by simp⟩

/-- One tick and one input, from what the sample does to it. -/
theorem execScanTick_of_debounceAt {raw : List Byte} {s : State} {i cnt : Nat} {v committed : Bool} (now : Word)
    (hstart : s.scan.started = true) (hi : i < s.cfg.nin) (h : debounceAt raw s i = (v, cnt, committed)) :
    ∃ u, exec (.scanTick raw now) s = .next u ∧ u.scan.started = true ∧ u.cfg = s.cfg ∧ u.st i = v ∧ u.cnt i = cnt
      ∧ u.events.countP (Event.isChangeOf i) = s.events.countP (Event.isChangeOf i) + committed.toNat := by
  have htick := execScanTick_input raw now s i hstart hi
  rw [← debounceAt, h] at htick
  cases committed <;> exact htick

/-! ## Runs of ticks (rule R178) -/

theorem execAll_scanTicks_cons {x : List Byte × Word} {ticks : List (List Byte × Word)} {s u : State}
    (h : exec (.scanTick x.1 x.2) s = .next u) :
    execAll (scanTicks (x :: ticks)) s = execAll (scanTicks ticks) u := by
  simp [scanTicks, execAll, h]

/-- The run of `ticks` from `s` leaves input `i` at `v`, with `k` CHANGE events of it. -/
def RunLeaves (i : Nat) (ticks : List (List Byte × Word)) (s : State) (v : Bool) (k : Nat) : Prop :=
  ∃ t, execAll (scanTicks ticks) s = .next t ∧ t.st i = v
    ∧ t.events.countP (Event.isChangeOf i) = s.events.countP (Event.isChangeOf i) + k

/-- Every `n` consecutive samples of input `i` hold one equal to `v`. -/
def AgreesInEveryWindow (i n : Nat) (v : Bool) (samples : List (List Byte × Word)) : Prop :=
  ∀ a w b, samples = a ++ w ++ b → w.length = n → ∃ x ∈ w, rawBit x.1 i = v

section
variable {i n : Nat} {v : Bool}

theorem RunLeaves.nil (s : State) : RunLeaves i [] s (s.st i) 0 := ⟨s, rfl, rfl, rfl⟩

theorem RunLeaves.cons {x : List Byte × Word} {ticks : List (List Byte × Word)} {s u : State} {j k : Nat}
    (hx : exec (.scanTick x.1 x.2) s = .next u)
    (hj : u.events.countP (Event.isChangeOf i) = s.events.countP (Event.isChangeOf i) + j)
    (h : RunLeaves i ticks u v k) : RunLeaves i (x :: ticks) s v (j + k) := by
  obtain ⟨t, ht, hv, hk⟩ := h
  exact ⟨t, (execAll_scanTicks_cons hx).trans ht, hv, by rw [hk, hj, Nat.add_assoc]⟩

theorem AgreesInEveryWindow.of_append {pre samples : List (List Byte × Word)}
    (h : AgreesInEveryWindow i n v (pre ++ samples)) : AgreesInEveryWindow i n v samples := by
  intro a w b hs hw
  exact h (pre ++ a) w b (by simp [hs]) hw

/-- A run of `n` samples that disagree is one of the windows. -/
theorem AgreesInEveryWindow.length_ne {pre samples : List (List Byte × Word)}
    (h : AgreesInEveryWindow i n v (pre ++ samples)) (hpre : ∀ x ∈ pre, rawBit x.1 i ≠ v) : pre.length ≠ n := by
  intro hn
  obtain ⟨x, hx, hv⟩ := h [] pre samples rfl hn
  exact hpre x hx hv

theorem AgreesInEveryWindow.of_forall {samples : List (List Byte × Word)} (hn : 0 < n)
    (h : ∀ x ∈ samples, rawBit x.1 i = v) : AgreesInEveryWindow i n v samples := by
  intro a w b hs hw
  obtain ⟨x, hx⟩ := List.exists_mem_of_length_pos (hw ▸ hn)
  exact ⟨x, hx, h x (by simp [hs, hx])⟩

/-- The counter is the length of `pre`, the samples in a row that disagreed just before the run: with them in front of
it, no window of DEBOUNCE_N disagreeing samples can come about, so no sample commits. -/
theorem runLeaves_unchanged (ticks pre : List (List Byte × Word)) {s : State}
    (hstart : s.scan.started = true) (hi : i < s.cfg.nin) (hcnt : s.cnt i = pre.length)
    (hpre : ∀ x ∈ pre, rawBit x.1 i ≠ s.st i)
    (hwin : AgreesInEveryWindow i s.cfg.debounceN (s.st i) (pre ++ ticks)) :
    RunLeaves i ticks s (s.st i) 0 := by
  induction ticks generalizing s pre with
  | nil => exact .nil s
  | cons x ticks ih =>
    by_cases hx : rawBit x.1 i = s.st i
    · obtain ⟨u, hu, hustart, hcfg, hst, hucnt, hev⟩ :=
        execScanTick_of_debounceAt x.2 hstart hi (debounceOne_agree hx)
      have hwin' : AgreesInEveryWindow i s.cfg.debounceN (s.st i) ticks :=
        .of_append (pre := pre ++ [x]) (by simpa using hwin)
      rw [← hcfg, ← hst] at hwin'
      have hrun := ih [] hustart (hcfg ▸ hi) hucnt (by simp) hwin'
      rw [← hst]
      exact .cons hu hev hrun
    · have hwin' : AgreesInEveryWindow i s.cfg.debounceN (s.st i) ((pre ++ [x]) ++ ticks) := by simpa using hwin
      have hpre' : ∀ y ∈ pre ++ [x], rawBit y.1 i ≠ s.st i := by
        simpa [or_imp, forall_and] using And.intro hpre hx
      have hcount : s.cnt i + 1 ≠ s.cfg.debounceN := by
        simpa [hcnt] using hwin'.length_ne hpre'
      obtain ⟨u, hu, hustart, hcfg, hst, hucnt, hev⟩ :=
        execScanTick_of_debounceAt x.2 hstart hi (debounceOne_count hx hcount)
      rw [← hst] at hpre'
      rw [← hcfg, ← hst] at hwin'
      have hrun := ih (pre ++ [x]) hustart (hcfg ▸ hi) (by simp [hucnt, hcnt]) hpre' hwin'
      rw [← hst]
      exact .cons hu hev hrun

/-- From a counter that has not reached DEBOUNCE_N, an input held at the other value for the samples still missing
changes once; the samples after the change agree with it (`runLeaves_unchanged`). -/
theorem runLeaves_held (ticks : List (List Byte × Word)) {s : State}
    (hstart : s.scan.started = true) (hi : i < s.cfg.nin) (hcnt : s.cnt i < s.cfg.debounceN) (hv : v ≠ s.st i)
    (hheld : ∀ x ∈ ticks, rawBit x.1 i = v) (hlen : s.cfg.debounceN ≤ s.cnt i + ticks.length) :
    RunLeaves i ticks s v 1 := by
  induction ticks generalizing s with
  | nil => exact absurd hlen (by simpa using hcnt)
  | cons x ticks ih =>
    have hx : rawBit x.1 i = v := hheld x List.mem_cons_self
    have hrest : ∀ y ∈ ticks, rawBit y.1 i = v := fun y hy => hheld y (List.mem_cons_of_mem x hy)
    have hraw : rawBit x.1 i ≠ s.st i := hx ▸ hv
    rw [List.length_cons] at hlen
    by_cases hcommit : s.cnt i + 1 = s.cfg.debounceN
    · obtain ⟨u, hu, hustart, hcfg, hst, hucnt, hev⟩ :=
        execScanTick_of_debounceAt x.2 hstart hi (debounceOne_commit hraw hcommit)
      have huv : u.st i = v := hst.trans hx
      have hwin : AgreesInEveryWindow i u.cfg.debounceN (u.st i) ticks :=
        .of_forall (by rw [hcfg]; omega) (by rwa [huv])
      have hrun := runLeaves_unchanged ticks [] hustart (hcfg ▸ hi) hucnt (by simp) hwin
      rw [← huv]
      exact .cons hu hev hrun
    · obtain ⟨u, hu, hustart, hcfg, hst, hucnt, hev⟩ :=
        execScanTick_of_debounceAt x.2 hstart hi (debounceOne_count hraw hcommit)
      have hlt : u.cnt i < u.cfg.debounceN := by rw [hucnt, hcfg]; omega
      have hlen' : u.cfg.debounceN ≤ u.cnt i + ticks.length := by rw [hucnt, hcfg]; omega
      have hrun := ih hustart (hcfg ▸ hi) hlt (hst ▸ hv) hrest hlen'
      exact .cons (j := 0) hu hev hrun

end

end Sys2Proof.Machine

namespace Sys2Proof.Proofs

open Sys2Proof Sys2Proof.Machine

/-- Settles O12: the counter holds the number of disagreeing samples in a row (`runLeaves_unchanged`,
`runLeaves_held`). -/
theorem debounceLaw : Obligations.DebounceLaw := by
  intro s i ticks hstart hi hcnt hn
  constructor
  · intro hwin
    exact runLeaves_unchanged ticks [] hstart hi hcnt (by simp) hwin
  · intro v hv hheld hlen
    exact runLeaves_held ticks hstart hi (hcnt ▸ hn) hv hheld (by omega)

/-- Settles O10: the three cases of one sample, and the CHANGE events of the snapshot, which the rules follow. -/
theorem scanTickDebouncesEveryInput : Obligations.ScanTickDebouncesEveryInput := by
  intro s raw now hstart
  obtain ⟨t, others, ht, hscan, hevents, hothers⟩ := execScanTick_events raw now hstart
  refine ⟨t, ht, ?_, changeEvents raw s, others, hevents, changeEvents_nodup raw s, fun e => mem_changeEvents, hothers⟩
  intro i hi
  have hst : t.st i = (debounceAt raw s i).1 := by rw [← snapshot_st raw now hi, State.st, hscan]; rfl
  have hcnt : t.cnt i = (debounceAt raw s i).2.1 := by rw [← snapshot_cnt raw now hi, State.cnt, hscan]; rfl
  rw [hst, hcnt, debounceAt]
  refine ⟨fun hagree => ?_, fun hraw hn => ?_, fun hraw hn => ?_⟩
  · simp [debounceOne_agree hagree]
  · simp [debounceOne_count hraw hn]
  · simp [debounceOne_commit hraw hn]

/-- Settles O11: a tick that leaves `system_ready` at 0 leaves its snapshot, which differs from the state before in the
scanner and by the CHANGE events. -/
theorem scanTickIsSuppressedUntilReady : Obligations.ScanTickIsSuppressedUntilReady := by
  intro s raw now hstart
  obtain ⟨t, ht, hscan, -, hcase⟩ := execScanTick_cases raw now hstart
  refine ⟨t, ht, by rw [hscan]; exact hstart, by rw [hscan]; rfl, by rw [hscan]; exact snapshot_ready, ?_⟩
  intro hready
  rcases hcase with ⟨htrue, -⟩ | ⟨-, rfl⟩
  · exact absurd htrue (by simp [hready])
  · exact ⟨changeEvents raw s, changeEvents_isChange, rfl⟩

/-- Settles O8: the two branches of SCAN_START. -/
theorem scanStartTakesFirstRead : Obligations.ScanStartTakesFirstRead := by
  intro s raw now
  constructor
  · intro hidle
    rw [execScanStart_of_idle hidle]
    rfl
  · intro hstart
    exact execScanStart_of_started hstart raw now

/-- Settles O9: each of the three refusals. -/
theorem scanOrderIsEnforced : Obligations.ScanOrderIsEnforced := by
  intro s raw now
  refine ⟨?_, ?_, ?_⟩
  · intro hidle
    exact execScanTick_of_idle hidle raw now
  · intro hidle var
    exact execSwRead_of_idle hidle var
  · intro hstart
    exact execScanStart_of_started hstart raw now

end Sys2Proof.Proofs
end

section
/-! The five rules at an evaluated tick (rules R191 to R211): each field of the state they leave, then for each rule its
cases on the snapshot, then the RULE events, and over a run of ticks rule 1 with the safeties off (rule R198). -/

namespace Sys2Proof.Machine

/-! ## The fields an evaluated tick leaves -/

section
variable (raw : List Byte) (now : Word) (s : State)

@[simp] theorem State.setResult_st (x : OpResult) (i : Nat) : (s.setResult x).st i = s.st i := rfl

@[simp] theorem runRules_scan : (runRules now s).scan = s.scan := by rw [runRules_eq]

@[simp] theorem runRules_st (i : Nat) : (runRules now s).st i = s.st i := by simp [State.st]

@[simp] theorem runRules_active : (runRules now s).active = flagsAfter now s := by rw [runRules_eq]

@[simp] theorem runRules_rules : (runRules now s).rules = { (ruleOne now s).2 with
    r2SettleRunning := ruleTwoWatches s
    r2SettleT0      := if ruleTwoWatches s then ruleTwoStart now s else s.rules.r2SettleT0
    r2Last          := ruleTwo now s
    r4Last          := railBad s } := by rw [runRules_eq]

@[simp] theorem runRules_safety : (runRules now s).safety =
    ⟨forceAfterRuleTwo now s || ruleFourActs s, s.safety.faultLatched || ruleThreeActsAfter now s,
      s.safety.laserLatchedOff || ruleThreeActsAfter now s || ruleFourActs s⟩ := by rw [runRules_eq]

@[simp] theorem runRules_latchQ : (runRules now s).latchQ =
    if ruleThreeActsAfter now s then List.replicate s.cfg.nLatch false else s.latchQ := by rw [runRules_eq]

@[simp] theorem runRules_logq : (runRules now s).logq =
    if ruleFourActs s then queued s.cfg .power (queueAtRuleFour now s) else queueAtRuleFour now s := by
  rw [runRules_eq]

@[simp] theorem runRules_events : (runRules now s).events = s.events ++ ruleEvents now s := by rw [runRules_eq]

@[simp] theorem runRules_thermal : (runRules now s).thermal = s.thermal := by rw [runRules_eq]

@[simp] theorem snapshot_cfg : (snapshot raw now s).cfg = s.cfg := rfl
@[simp] theorem snapshot_active : (snapshot raw now s).active = s.active := rfl
@[simp] theorem snapshot_rules : (snapshot raw now s).rules = s.rules := rfl
@[simp] theorem snapshot_safety : (snapshot raw now s).safety = s.safety := rfl
@[simp] theorem snapshot_thermal : (snapshot raw now s).thermal = s.thermal := rfl
@[simp] theorem snapshot_latchQ : (snapshot raw now s).latchQ = s.latchQ := rfl
@[simp] theorem snapshot_logq : (snapshot raw now s).logq = s.logq := rfl
@[simp] theorem snapshot_events : (snapshot raw now s).events = s.events ++ changeEvents raw s := rfl

end

/-! ## Rule 1 (rule R197): disarmed, not yet armed, arming, armed -/

/-- The start of the arming timer in a tick in which it runs. -/
def armStart (now : Word) (r : RuleState) : Word := if r.r1ArmRunning then r.r1ArmT0 else now

theorem armTimer_of_unarmed {c : Config} {now : Word} {r : RuleState} (hunarmed : r.r1Armed = false) :
    armTimer c now r = { r with
      r1ArmRunning := true
      r1ArmT0      := armStart now r
      r1Armed      := decide (c.armMs ≤ elapsed now (armStart now r)) } := by
  obtain ⟨running, t0, armed, _, _, _, _⟩ := r
  obtain rfl : armed = false := hunarmed
  cases running with
  | false => by_cases hgrace : c.armMs ≤ elapsed now now <;> simp [armTimer, armStart, hgrace]
  | true => by_cases hgrace : c.armMs ≤ elapsed now t0 <;> simp [armTimer, armStart, hgrace]

section
variable {now : Word} {s : State}

theorem ruleOne_of_disarmed (h : if s.cfg.r1DisarmOnAny then all4 s = false else s.st inDoor = false) :
    ruleOne now s = (false, { s.rules with r1ArmRunning := false, r1Armed := false }) := by
  unfold ruleOne
  split at h
  · next hany => simp [hany, h]
  · next hany => simp [hany, h]

theorem ruleOne_of_notYetArmed (hany : s.cfg.r1DisarmOnAny = false) (hdoor : s.st inDoor = true)
    (hunarmed : s.rules.r1Armed = false) (hoff : all4 s = false) :
    ruleOne now s = (false, { s.rules with r1ArmRunning := false }) := by
  simp [ruleOne, hany, hdoor, hunarmed, hoff]

theorem inDoor_of_all4 (h : all4 s = true) : s.st inDoor = true := by
  simp only [all4, Bool.and_eq_true] at h
  obtain ⟨⟨⟨hdoor, -⟩, -⟩, -⟩ := h
  exact hdoor

theorem ruleOne_of_arming (hunarmed : s.rules.r1Armed = false) (hall : all4 s = true) :
    ruleOne now s = (decide (s.cfg.armMs ≤ elapsed now (armStart now s.rules)) && (!s.st inRelay1 || !s.st inRelay2),
      { s.rules with
        r1ArmRunning := true
        r1ArmT0      := armStart now s.rules
        r1Armed      := decide (s.cfg.armMs ≤ elapsed now (armStart now s.rules)) }) := by
  simp [ruleOne, hall, inDoor_of_all4 hall, armTimer_of_unarmed hunarmed]

theorem ruleOne_of_armed (harmed : s.rules.r1Armed = true)
    (hkeep : if s.cfg.r1DisarmOnAny then all4 s = true else s.st inDoor = true) :
    ruleOne now s = (!s.st inRelay1 || !s.st inRelay2, s.rules) := by
  have hdoor : s.st inDoor = true := by
    split at hkeep
    · exact inDoor_of_all4 hkeep
    · exact hkeep
  unfold ruleOne
  split at hkeep
  · next hany => simp [armTimer, hany, harmed, hkeep, hdoor]
  · next hany => simp [armTimer, hany, harmed, hdoor]

/-- Rule 1 arms and faults only with the four safeties all true. -/
theorem ruleOne_of_safetiesOff (hunarmed : s.rules.r1Armed = false) (hoff : all4 s = false) :
    (ruleOne now s).1 = false ∧ (ruleOne now s).2.r1Armed = false := by
  by_cases hdisarm : if s.cfg.r1DisarmOnAny then all4 s = false else s.st inDoor = false
  · simp [ruleOne_of_disarmed hdisarm]
  · cases hany : s.cfg.r1DisarmOnAny with
    | true => simp [hany, hoff] at hdisarm
    | false =>
      have hdoor : s.st inDoor = true := by simpa [hany] using hdisarm
      simp [ruleOne_of_notYetArmed hany hdoor hunarmed hoff, hunarmed]

/-! ## Rules 2, 3 and 4 (rules R202, R205, R206, R208) -/

theorem contactMismatch_iff :
    contactMismatch s = true ↔ ∃ k < s.cfg.nContact, s.st (9 + 2 * k) = false ∨ s.st (10 + 2 * k) = true := by
  simp [contactMismatch, inNo, inNc]

theorem ruleTwo_of_suppressed (h : ruleTwoWatches s = false) : ruleTwo now s = false := by
  simp [ruleTwo, h]

theorem ruleTwo_iff_of_watches (h : ruleTwoWatches s = true) :
    ruleTwo now s = true ↔ s.cfg.settleMs ≤ elapsed now (ruleTwoStart now s)
      ∧ ∃ k < s.cfg.nContact, s.st (9 + 2 * k) = false ∨ s.st (10 + 2 * k) = true := by
  simp [ruleTwo, h, contactMismatch_iff]

theorem latchErrLine_iff :
    latchErrLine s = true ↔ ∃ j < s.cfg.nLatchErr, s.st (9 + 2 * s.cfg.nContact + j) = true := by
  simp [latchErrLine, inLatchErr]

/-- Rule 3 acts on a latch-error line, the force flag or rule 2's act of the same tick (rule R192), once until the
sticky flag is cleared. -/
theorem ruleThreeActsAfter_iff :
    ruleThreeActsAfter now s = true ↔
      ((∃ j < s.cfg.nLatchErr, s.st (9 + 2 * s.cfg.nContact + j) = true) ∨ s.safety.forceError = true
        ∨ (ruleTwo now s && (!s.cfg.r2ForceOnEdgeOnly || !s.rules.r2Last)) = true)
      ∧ s.safety.faultLatched = false := by
  rw [← latchErrLine_iff]
  simp [ruleThreeActsAfter, forceAfterRuleTwo]

theorem railBad_iff : railBad s = true ↔ s.st inV12 = false ∨ s.st inV24 = false ∨ s.st inFuse12 = false := by
  simp [railBad, or_assoc]

end

theorem isPrefix_queued (c : Config) (k : LogKind) (q : List LogRequest) : q <+: queued c k q := by
  unfold queued
  split
  · exact ⟨_, rfl⟩
  · exact ⟨[], List.append_nil _⟩

theorem isPrefix_queueAtRuleFour (now : Word) (s : State) : s.logq <+: queueAtRuleFour now s := by
  unfold queueAtRuleFour
  split
  · exact isPrefix_queued _ _ _
  · exact ⟨[], List.append_nil _⟩

/-! ## The events of the rules (rules R193, R195, R211, R252) -/

/-- The fixed order of the rules (rule R191). -/
def ruleOrder : List RuleId := [.doorRelay, .contacts, .latchError, .powerGood, .temperature]

/-- The RULE events of the edges between two settings of the flags, in rule order. -/
def flagEdges (was now : ActiveFlags) : List Event :=
  ruleOrder.flatMap fun r =>
    edgeEvents r (was.get r) (now.get r)

theorem flagEdges_eq_filterMap (was now : ActiveFlags) :
    flagEdges was now = ruleOrder.filterMap fun r =>
      if was.get r = now.get r then none else some (.rule r (if now.get r then .activate else .clear)) := by
  rw [flagEdges, List.filterMap_eq_flatMap_toList]
  congr 1
  funext r
  unfold edgeEvents
  split <;> rfl

theorem mem_edgeEvents {r : RuleId} {was now : Bool} {e : Event} :
    e ∈ edgeEvents r was now ↔ was ≠ now ∧ e = .rule r (if now then .activate else .clear) := by
  unfold edgeEvents
  split
  · next h => simp [h]
  · next h => simp [h]

theorem filter_isRule_edgeEvents (r : RuleId) (was now : Bool) :
    (edgeEvents r was now).filter Event.isRule = edgeEvents r was now := by
  rw [List.filter_eq_self]
  intro e he
  obtain ⟨-, rfl⟩ := mem_edgeEvents.1 he
  rfl

theorem mem_dropped {c : Config} {q : List LogRequest} {e : Event} (h : e ∈ dropped c q) : e = .logDropped := by
  unfold dropped at h
  split at h
  · exact absurd h List.not_mem_nil
  · exact List.mem_singleton.1 h

theorem filter_isRule_dropped (c : Config) (q : List LogRequest) : (dropped c q).filter Event.isRule = [] := by
  rw [List.filter_eq_nil_iff]
  intro e he
  simp [mem_dropped he, Event.isRule]

theorem filter_isRule_changeEvents (raw : List Byte) (s : State) : (changeEvents raw s).filter Event.isRule = [] := by
  rw [List.filter_eq_nil_iff]
  intro e he
  obtain ⟨i, -, -, -, rfl⟩ := mem_changeEvents.1 he
  simp [Event.isRule]

section
variable {now : Word} {s : State}

/-- The RULE events of the rules are the edges of the flags. -/
theorem filter_isRule_ruleEvents : (ruleEvents now s).filter Event.isRule = flagEdges s.active (flagsAfter now s) := by
  have hlatch : (if ruleThreeActsAfter now s then Event.latchSeq .fault :: dropped s.cfg s.logq else []).filter
      Event.isRule = [] := by
    split
    · simp [Event.isRule, filter_isRule_dropped]
    · rfl
  have hpower : (if ruleFourActs s then dropped s.cfg (queueAtRuleFour now s) else []).filter Event.isRule = [] := by
    split
    · exact filter_isRule_dropped _ _
    · rfl
  simp [ruleEvents, hlatch, hpower, filter_isRule_edgeEvents, flagEdges, ruleOrder, ActiveFlags.get]

/-- A rule that is inactive before and after emits no ACTIVATE. -/
theorem activate_notMem_ruleEvents {r : RuleId} (h : (flagsAfter now s).get r = false) :
    .rule r .activate ∉ ruleEvents now s := by
  intro hmem
  have hedge : .rule r .activate ∈ flagEdges s.active (flagsAfter now s) := by
    rw [← filter_isRule_ruleEvents]
    exact List.mem_filter.2 ⟨hmem, rfl⟩
  rw [flagEdges, List.mem_flatMap] at hedge
  obtain ⟨r', -, hr'⟩ := hedge
  obtain ⟨-, heq⟩ := mem_edgeEvents.1 hr'
  obtain ⟨rfl, hnow⟩ := Event.rule.inj heq
  simp [h] at hnow

theorem latchSeq_mem_ruleEvents {x : LatchCommand} :
    .latchSeq x ∈ ruleEvents now s ↔ x = .fault ∧ ruleThreeActsAfter now s = true := by
  have hdropped : ∀ c q, Event.latchSeq x ∉ dropped c q := fun c q h => by simpa using mem_dropped h
  have hpower : Event.latchSeq x ∉ if ruleFourActs s then dropped s.cfg (queueAtRuleFour now s) else [] := by
    split
    · exact hdropped _ _
    · exact List.not_mem_nil
  cases hacts : ruleThreeActsAfter now s <;> simp [ruleEvents, mem_edgeEvents, hdropped, hpower, hacts]

theorem latchSeq_notMem_changeEvents {raw : List Byte} {x : LatchCommand} : .latchSeq x ∉ changeEvents raw s := by
  intro hmem
  obtain ⟨i, -, -, -, heq⟩ := mem_changeEvents.1 hmem
  cases heq

end

/-! ## Rule 1 over a run of ticks with the safeties off (rule R198) -/

/-- Rule 1 unarmed and not active, after SCAN_START. -/
structure RuleOneOff (s : State) : Prop where
  started  : s.scan.started = true
  unarmed  : s.rules.r1Armed = false
  inactive : s.active.doorRelay = false

/-- At no evaluated tick of the run are the four primary safeties all true. -/
def SafetiesOffAtTicks (ticks : List (List Byte × Word)) (s : State) : Prop :=
  ∀ a b u, ticks = a ++ b → a ≠ [] → execAll (scanTicks a) s = .next u → u.scan.systemReady = true → all4 u = false

section
variable {x : List Byte × Word} {ticks : List (List Byte × Word)} {s u : State}

theorem SafetiesOffAtTicks.head (h : SafetiesOffAtTicks (x :: ticks) s) (hx : exec (.scanTick x.1 x.2) s = .next u) :
    u.scan.systemReady = true → all4 u = false :=
  h [x] ticks u rfl (List.cons_ne_nil _ _) (execAll_scanTicks_cons hx)

theorem SafetiesOffAtTicks.tail (h : SafetiesOffAtTicks (x :: ticks) s) (hx : exec (.scanTick x.1 x.2) s = .next u) :
    SafetiesOffAtTicks ticks u := by
  intro a b v hab _ hv
  exact h (x :: a) b v (by rw [hab, List.cons_append]) (List.cons_ne_nil _ _) ((execAll_scanTicks_cons hx).trans hv)

/-- One tick: a suppressed one emits CHANGE events only, an evaluated one leaves rule 1 as `ruleOne_of_safetiesOff`
says. -/
theorem RuleOneOff.scanTick_of_safetiesOff {raw : List Byte} {now : Word} (h : RuleOneOff s)
    (hoff : ∀ u, exec (.scanTick raw now) s = .next u → u.scan.systemReady = true → all4 u = false) :
    ∃ u, exec (.scanTick raw now) s = .next u ∧ RuleOneOff u
      ∧ ∃ new, u.events = s.events ++ new ∧ .rule .doorRelay .activate ∉ new := by
  have hchange : Event.rule .doorRelay .activate ∉ changeEvents raw s := fun hmem =>
    Bool.false_ne_true (changeEvents_isChange _ hmem)
  obtain ⟨u, hu, hscan, -, ⟨hready, rfl⟩ | ⟨-, rfl⟩⟩ := execScanTick_cases raw now h.started
  · have hall : all4 (snapshot raw now s) = false := by
      simpa [all4] using hoff _ hu hready
    obtain ⟨hresult, hunarmed⟩ := ruleOne_of_safetiesOff (now := now) (s := snapshot raw now s) h.unarmed hall
    have hrules : Event.rule .doorRelay .activate ∉ ruleEvents now (snapshot raw now s) :=
      activate_notMem_ruleEvents hresult
    refine ⟨_, hu, ⟨by rw [hscan]; exact h.started, ?_, ?_⟩, changeEvents raw s ++ ruleEvents now (snapshot raw now s),
      ?_, ?_⟩
    · simpa using hunarmed
    · simpa [flagsAfter] using hresult
    · simp
    · simp [hchange, hrules]
  · exact ⟨_, hu, ⟨h.started, h.unarmed, h.inactive⟩, changeEvents raw s, rfl, hchange⟩

end

theorem RuleOneOff.run_of_safetiesOff (ticks : List (List Byte × Word)) {s : State} (h : RuleOneOff s)
    (hoff : SafetiesOffAtTicks ticks s) :
    ∃ t, execAll (scanTicks ticks) s = .next t ∧ t.active.doorRelay = false
      ∧ ∃ new, t.events = s.events ++ new ∧ .rule .doorRelay .activate ∉ new := by
  induction ticks generalizing s with
  | nil => exact ⟨s, rfl, h.inactive, [], (List.append_nil _).symm, List.not_mem_nil⟩
  | cons x ticks ih =>
    obtain ⟨u, hu, hsame, first, hfirst, hnot⟩ := h.scanTick_of_safetiesOff fun u hu => hoff.head hu
    obtain ⟨t, ht, hinactive, rest, hrest, hnot'⟩ := ih hsame (hoff.tail hu)
    refine ⟨t, (execAll_scanTicks_cons hu).trans ht, hinactive, first ++ rest, ?_, ?_⟩
    · rw [hrest, hfirst, List.append_assoc]
    · simp [hnot, hnot']

end Sys2Proof.Machine

namespace Sys2Proof.Proofs

open Sys2Proof Sys2Proof.Machine

/-- Settles O13: the four cases of rule 1 on the snapshot. -/
theorem ruleOneDoorRequiresRelays : Obligations.RuleOneDoorRequiresRelays := by
  intro s raw now hstart hready
  refine ⟨_, execScanTick_ready hstart hready, ?_⟩
  simp only [State.setResult_st, State.setResult_active, State.setResult_rules, runRules_st, runRules_active,
    runRules_rules, flagsAfter]
  refine ⟨fun hdisarmed => ?_, fun hany hdoor hunarmed hoff => ?_, fun hunarmed hall => ?_, fun harmed hkeep => ?_⟩
  · rw [ruleOne_of_disarmed (s := snapshot raw now s) hdisarmed]
    exact ⟨rfl, rfl, rfl, rfl⟩
  · rw [ruleOne_of_notYetArmed (s := snapshot raw now s) hany hdoor hunarmed hoff]
    exact ⟨rfl, hunarmed, rfl, rfl⟩
  · rw [ruleOne_of_arming (s := snapshot raw now s) hunarmed hall]
    exact ⟨rfl, rfl, rfl, rfl⟩
  · rw [ruleOne_of_armed (s := snapshot raw now s) harmed hkeep]
    exact ⟨rfl, rfl, harmed, rfl⟩

/-- Settles O14: by induction over the run, rule 1 stays off (`RuleOneOff.run_of_safetiesOff`). -/
theorem ruleOneNeverFaultsWithSafetiesOff : Obligations.RuleOneNeverFaultsWithSafetiesOff := by
  intro s ticks hstart hunarmed hinactive hoff
  exact RuleOneOff.run_of_safetiesOff ticks ⟨hstart, hunarmed, hinactive⟩ hoff

/-- Settles O15: rule 2 suppressed or watching on the snapshot, and the force flag when it acts. -/
theorem ruleTwoRelayContactsMatch : Obligations.RuleTwoRelayContactsMatch := by
  intro s raw now hstart hready
  refine ⟨_, execScanTick_ready hstart hready, ?_⟩
  simp only [State.setResult_st, State.setResult_active, State.setResult_rules, State.setResult_safety, runRules_st,
    runRules_active, runRules_rules, runRules_safety, flagsAfter]
  refine ⟨fun hsuppressed => ?_, fun hwatched => ?_, trivial, fun hfault hacts => ?_⟩
  · have hwatch : ruleTwoWatches (snapshot raw now s) = false := hsuppressed
    simp [hwatch, ruleTwo_of_suppressed]
  · have hwatch : ruleTwoWatches (snapshot raw now s) = true := hwatched
    rw [hwatch]
    exact ⟨rfl, rfl, ruleTwo_iff_of_watches hwatch⟩
  · simp [forceAfterRuleTwo, hfault, hacts]

/-- Settles O16: rule 3 acts or not on the snapshot (`ruleThreeActsAfter_iff`). -/
theorem ruleThreeLatchError : Obligations.RuleThreeLatchError := by
  intro s raw now hstart hready
  refine ⟨_, execScanTick_ready hstart hready, ?_⟩
  have hacts := ruleThreeActsAfter_iff (now := now) (s := snapshot raw now s)
  simp only [State.setResult_st, State.setResult_active, State.setResult_safety, State.setResult_latchQ,
    State.setResult_events, runRules_st, runRules_active, runRules_safety, runRules_latchQ, runRules_events, flagsAfter,
    snapshot_events, List.append_assoc, List.drop_left, List.mem_append, latchSeq_notMem_changeEvents, false_or,
    latchSeq_mem_ruleEvents, true_and]
  refine ⟨fun hraw hclear => ?_, fun hno => ?_, trivial⟩
  · have h3 : ruleThreeActsAfter now (snapshot raw now s) = true := hacts.2 ⟨hraw, hclear⟩
    simp [h3]
  · have h3 : ruleThreeActsAfter now (snapshot raw now s) = false := by
      rw [Bool.eq_false_iff]
      intro h
      obtain ⟨hraw, hclear⟩ := hacts.1 h
      rcases hno with hno | hlatched
      · exact hno hraw
      · exact Bool.false_ne_true (hclear.symm.trans hlatched)
    simp [h3]

/-- Settles O17: rule 4's edge finds the queue rule 3 left, which extends the queue before the tick. -/
theorem ruleFourPowerGood : Obligations.RuleFourPowerGood := by
  intro s raw now hstart hready
  refine ⟨_, execScanTick_ready hstart hready, ?_⟩
  simp only [State.setResult_st, State.setResult_active, State.setResult_rules, State.setResult_safety,
    State.setResult_logq, runRules_st, runRules_active, runRules_rules, runRules_safety, runRules_logq, flagsAfter]
  refine ⟨railBad_iff, trivial, fun hbad hlast => ?_⟩
  have h4 : ruleFourActs (snapshot raw now s) = true := by simp [ruleFourActs, hbad, hlast]
  exact ⟨by simp [h4], by simp [h4], _, if_pos h4, isPrefix_queueAtRuleFour now (snapshot raw now s)⟩

/-- Settles O18: the engine only reads ThermalGuard. -/
theorem ruleFiveTemperatureSafe : Obligations.RuleFiveTemperatureSafe := by
  intro s raw now hstart hready
  refine ⟨_, execScanTick_ready hstart hready, ?_⟩
  simp [flagsAfter]

/-- Settles O19: the CHANGE events come first and are no RULE events. -/
theorem ruleEventsAreEdgesInRuleOrder : Obligations.RuleEventsAreEdgesInRuleOrder := by
  intro s raw now hstart hready
  refine ⟨_, changeEvents raw s ++ ruleEvents now (snapshot raw now s), execScanTick_ready hstart hready, ?_, ?_⟩
  · simp
  · have hedges : (changeEvents raw s ++ ruleEvents now (snapshot raw now s)).filter Event.isRule
        = flagEdges s.active (flagsAfter now (snapshot raw now s)) := by
      rw [List.filter_append, filter_isRule_changeEvents, List.nil_append, filter_isRule_ruleEvents, snapshot_active]
    rw [State.setResult_active, runRules_active, hedges]
    exact flagEdges_eq_filterMap _ _

end Sys2Proof.Proofs
end

section
/-! The thermal guard: what one THERMAL_SAMPLE does in each case (rules R232 to R237, R240, R241), the hysteresis over a
run of samples (rule R243), and SET_BYPASS (rule R238). -/

namespace Sys2Proof.Machine

/-! ## The two conditions (rules R233, R235) -/

section
variable {c : Config} {temp : Half} {fl : Byte}

theorem outOfRange_iff : outOfRange c temp = true ↔ outsideTrip c temp := by
  rw [outOfRange, Bool.or_eq_true, decide_eq_true_eq, decide_eq_true_eq]
  rfl

theorem tripCond_iff : tripCond c temp fl = true ↔ sensorFault fl = true ∨ outsideTrip c temp := by
  rw [tripCond, Bool.or_eq_true, outOfRange_iff]

theorem clearCond_iff : clearCond c temp fl = true ↔ sensorFault fl = false ∧ insideClear c temp := by
  rw [clearCond, Bool.and_eq_true, Bool.and_eq_true, Bool.not_eq_true', decide_eq_true_eq, decide_eq_true_eq, and_assoc,
    and_comm (a := quarterDegrees temp < c.tHighClear)]
  rfl

theorem sensorFault_eq_false_iff :
    sensorFault fl = false ↔ fl.getLsbD 0 = false ∧ fl.getLsbD 1 = false ∧ fl.getLsbD 2 = false := by
  simp [sensorFault, flOc, flScg, flScv, and_assoc]

/-- With the clear band inside the trip band no temperature is both outside the one and inside the other. -/
theorem not_insideClear_of_outsideTrip (hlow : c.tLowTrip ≤ c.tLowClear) (hhigh : c.tHighClear ≤ c.tHighTrip)
    (h : outsideTrip c temp) : ¬insideClear c temp := by
  rintro ⟨hlo, hhi⟩
  rcases h with h | h <;> omega

end

/-! ## One hysteresis step -/

section
variable {temp : Half} {fl : Byte} {s : State}

theorem hysteresis_of_trip (hf : s.thermal.fault = false) (ht : tripCond s.cfg temp fl = true) :
    hysteresis temp fl s = raiseCondition (.overUnderTemp temp) s := by
  simp [hysteresis, hf, ht]

theorem hysteresis_of_noTrip (hf : s.thermal.fault = false) (ht : tripCond s.cfg temp fl = false) :
    hysteresis temp fl s = s := by
  simp [hysteresis, hf, ht]

theorem hysteresis_of_clear (hf : s.thermal.fault = true) (hc : clearCond s.cfg temp fl = true) :
    hysteresis temp fl s = (s.setThermal { s.thermal with fault := false }).emit .thermalClear := by
  simp [hysteresis, hf, hc]

theorem hysteresis_of_noClear (hf : s.thermal.fault = true) (hc : clearCond s.cfg temp fl = false) :
    hysteresis temp fl s = s := by
  simp [hysteresis, hf, hc]

theorem hysteresis_fault :
    (hysteresis temp fl s).thermal.fault
      = if s.thermal.fault then !clearCond s.cfg temp fl else tripCond s.cfg temp fl := by
  rcases hysteresis_cases temp fl s with ⟨heq, hclear, htrip⟩ | ⟨hf, hc, heq⟩ | ⟨hf, ht, heq⟩
  · rw [heq]
    cases hf : s.thermal.fault
    · simp [htrip hf]
    · simp [hclear hf]
  · simp [heq, hf, hc]
  · simp [heq, hf, ht, raise_overUnderTemp]

/-- Without sensor fault: a temperature outside the trip band trips, and a tripped guard stays so unless the temperature
is strictly inside the clear band. -/
theorem hysteresis_fault_iff (hlow : s.cfg.tLowTrip ≤ s.cfg.tLowClear) (hhigh : s.cfg.tHighClear ≤ s.cfg.tHighTrip)
    (hfl : sensorFault fl = false) :
    (hysteresis temp fl s).thermal.fault = true
      ↔ outsideTrip s.cfg temp ∨ s.thermal.fault = true ∧ ¬insideClear s.cfg temp := by
  cases hf : s.thermal.fault
  · simp [hysteresis_fault, hf, tripCond_iff, hfl]
  · have hstays : (hysteresis temp fl s).thermal.fault = true ↔ ¬insideClear s.cfg temp := by
      simp [hysteresis_fault, hf, ← Bool.not_eq_true, clearCond_iff, hfl]
    have hband : outsideTrip s.cfg temp → ¬insideClear s.cfg temp := not_insideClear_of_outsideTrip hlow hhigh
    simp [hstays, or_iff_right_of_imp hband]

/-- A hysteresis step leaves whether the next sample runs one. -/
theorem hysteresis_publishOnly : publishOnly (hysteresis temp fl s) = publishOnly s := by
  rcases hysteresis_cases temp fl s with ⟨heq, -, -⟩ | ⟨-, -, heq⟩ | ⟨-, -, heq⟩
  · rw [heq]
  · rw [heq]
    rfl
  · rw [heq, raise_overUnderTemp]
    rfl

end

/-! ## THERMAL_SAMPLE and SET_BYPASS -/

section
variable {s : State}

theorem exec_thermalSample_of_publishOnly (h : publishOnly s = true) (temp : Half) (fl : Byte) (raw32 : Word) :
    exec (.thermalSample temp fl raw32) s = done .nothing (publish temp fl raw32 s) := by
  simp [exec, execThermalSample, h]

theorem exec_thermalSample_of_live (h : publishOnly s = false) (temp : Half) (fl : Byte) (raw32 : Word) :
    exec (.thermalSample temp fl raw32) s = done .nothing (hysteresis temp fl (publish temp fl raw32 s)) := by
  simp [exec, execThermalSample, h]

theorem publishOnly_eq_false_iff :
    publishOnly s = false
      ↔ s.thermal.bypass = false ∧ (s.cfg.thermalGatedByReady = false ∨ s.scan.systemReady = true) := by
  simp [publishOnly, Classical.or_iff_not_imp_left]

theorem exec_setBypass_of_ne {v : Bool} (h : v ≠ s.thermal.bypass) :
    exec (.setBypass v) s = done .nothing
      ((s.setThermal { s.thermal with bypass := v }).emit (.bypass (if v then .enter else .leave))) := by
  simp [exec, execSetBypass, h]

theorem exec_setBypass_of_eq {v : Bool} (h : v = s.thermal.bypass) : exec (.setBypass v) s = done .nothing s := by
  simp [exec, execSetBypass, h]

end

/-! ## Runs of samples (rule R243) -/

theorem execAll_cons_of_next {i : Instr} {s u : State} (h : exec i s = .next u) (is : List Instr) :
    execAll (i :: is) s = execAll is u := by
  simp [execAll, h]

/-- A run of thermal samples: temperature, flag byte and raw word of each. -/
def thermalSamples (samples : List (Half × Byte × Word)) : List Instr :=
  samples.map fun x => .thermalSample x.1 x.2.1 x.2.2

/-- The thresholds are ordered and no sample is publish-only: the premises of rule R243 on the state. -/
structure HysteresisRuns (s : State) : Prop where
  low  : s.cfg.tLowTrip ≤ s.cfg.tLowClear
  high : s.cfg.tHighClear ≤ s.cfg.tHighTrip
  live : publishOnly s = false

/-- One sample without sensor fault: tripped after it iff it lies outside the trip band, or not strictly inside the
clear band of a guard that was tripped. -/
theorem HysteresisRuns.thermalSample {s : State} (h : HysteresisRuns s) {fl : Byte} (hfl : sensorFault fl = false)
    (temp : Half) (raw32 : Word) :
    ∃ u, exec (.thermalSample temp fl raw32) s = .next u ∧ HysteresisRuns u ∧ u.cfg = s.cfg
      ∧ (u.thermal.fault = true
          ↔ outsideTrip s.cfg temp ∨ s.thermal.fault = true ∧ ¬insideClear s.cfg temp) := by
  have hcfg : (hysteresis temp fl (publish temp fl raw32 s)).cfg = s.cfg := (hysteresis_extends _ _ _).cfg
  have hlive : publishOnly (hysteresis temp fl (publish temp fl raw32 s)) = publishOnly s := hysteresis_publishOnly
  refine ⟨_, exec_thermalSample_of_live h.live temp fl raw32, ⟨?_, ?_, hlive.trans h.live⟩, hcfg, ?_⟩
  · exact hcfg ▸ h.low
  · exact hcfg ▸ h.high
  · exact hysteresis_fault_iff (s := publish temp fl raw32 s) h.low h.high hfl

/-- Rule R243's condition for tripped after `samples`, from a guard that `was` tripped or not: a sample outside the trip
band came after every one inside the clear band, or it was tripped and none was inside. -/
def LastOutsideTrip (c : Config) (was : Prop) (samples : List (Half × Byte × Word)) : Prop :=
  (∃ a x b, samples = a ++ x :: b ∧ outsideTrip c x.1 ∧ ∀ y ∈ b, ¬insideClear c y.1)
    ∨ (was ∧ ∀ y ∈ samples, ¬insideClear c y.1)

section
variable {c : Config} {was : Prop} {samples : List (Half × Byte × Word)}

theorem lastOutsideTrip_nil : LastOutsideTrip c was [] ↔ was := by
  simp [LastOutsideTrip]

/-- The first sample is taken into what the guard was before the rest. -/
theorem lastOutsideTrip_cons {x : Half × Byte × Word} :
    LastOutsideTrip c was (x :: samples)
      ↔ LastOutsideTrip c (outsideTrip c x.1 ∨ was ∧ ¬insideClear c x.1) samples := by
  constructor
  · rintro (⟨a, y, b, hsplit, hout, hb⟩ | ⟨hwas, hnone⟩)
    · cases a with
      | nil =>
        obtain ⟨rfl, rfl⟩ := List.cons.inj hsplit
        exact .inr ⟨.inl hout, hb⟩
      | cons z a =>
        obtain ⟨-, hrest⟩ := List.cons.inj hsplit
        exact .inl ⟨a, y, b, hrest, hout, hb⟩
    · obtain ⟨hx, hrest⟩ := List.forall_mem_cons.1 hnone
      exact .inr ⟨.inr ⟨hwas, hx⟩, hrest⟩
  · rintro (⟨a, y, b, rfl, hout, hb⟩ | ⟨hout | ⟨hwas, hx⟩, hrest⟩)
    · exact .inl ⟨x :: a, y, b, rfl, hout, hb⟩
    · exact .inl ⟨[], x, samples, rfl, hout, hrest⟩
    · exact .inr ⟨hwas, List.forall_mem_cons.2 ⟨hx, hrest⟩⟩

/-- Samples in a dead band leave what was. -/
theorem lastOutsideTrip_of_deadBand (h : ∀ x ∈ samples, ¬outsideTrip c x.1 ∧ ¬insideClear c x.1) :
    LastOutsideTrip c was samples ↔ was := by
  constructor
  · rintro (⟨a, x, b, rfl, hout, -⟩ | ⟨hwas, -⟩)
    · exact absurd hout (h x (by simp)).1
    · exact hwas
  · intro hwas
    exact .inr ⟨hwas, fun x hx => (h x hx).2⟩

end

theorem HysteresisRuns.run (samples : List (Half × Byte × Word)) {s : State} (h : HysteresisRuns s)
    (hfl : ∀ x ∈ samples, sensorFault x.2.1 = false) :
    ∃ t, execAll (thermalSamples samples) s = .next t
      ∧ (t.thermal.fault = true ↔ LastOutsideTrip s.cfg (s.thermal.fault = true) samples) := by
  induction samples generalizing s with
  | nil => exact ⟨s, rfl, lastOutsideTrip_nil.symm⟩
  | cons x samples ih =>
    obtain ⟨hx, hrest⟩ := List.forall_mem_cons.1 hfl
    obtain ⟨u, hu, hruns, hcfg, hfault⟩ := h.thermalSample hx x.1 x.2.2
    obtain ⟨t, ht, hlaw⟩ := ih hruns hrest
    refine ⟨t, (execAll_cons_of_next hu _).trans ht, ?_⟩
    rw [hlaw, lastOutsideTrip_cons, hcfg, hfault]

end Sys2Proof.Machine

namespace Sys2Proof.Proofs

open Sys2Proof Sys2Proof.Machine

/-- Settles O23: by induction over the run (`HysteresisRuns.run`), the first sample deciding what the guard was before
the rest (`lastOutsideTrip_cons`); the dead band follows from the law. -/
theorem thermalHysteresisLaw : Obligations.ThermalHysteresisLaw := by
  intro s samples hlow hhigh hbypass hgate hfl
  obtain ⟨t, ht, hlaw⟩ := HysteresisRuns.run samples ⟨hlow, hhigh, publishOnly_eq_false_iff.2 ⟨hbypass, hgate⟩⟩
    fun x hx => sensorFault_eq_false_iff.2 (hfl x hx)
  refine ⟨t, ht, hlaw, fun hdead => ?_⟩
  rw [Bool.eq_iff_iff, hlaw, lastOutsideTrip_of_deadBand hdead]

/-- Settles O22: a publish-only sample, and the four cases of the hysteresis on the published state. -/
theorem thermalSampleRunsHysteresis : Obligations.ThermalSampleRunsHysteresis := by
  intro s temp fl raw32 sensor range th quiet clear
  refine ⟨fun hquiet => ?_, fun hquiet hf htrip => ?_, fun hquiet hf htrip => ?_, fun hquiet hf hclear => ?_,
    fun hquiet hf hclear => ?_⟩
  · exact exec_thermalSample_of_publishOnly hquiet temp fl raw32
  · rw [exec_thermalSample_of_live hquiet, hysteresis_of_trip (s := publish temp fl raw32 s) hf htrip,
      raise_overUnderTemp]
    rfl
  · rw [exec_thermalSample_of_live hquiet, hysteresis_of_noTrip (s := publish temp fl raw32 s) hf htrip]
    rfl
  · rw [exec_thermalSample_of_live hquiet, hysteresis_of_clear (s := publish temp fl raw32 s) hf hclear]
    rfl
  · rw [exec_thermalSample_of_live hquiet, hysteresis_of_noClear (s := publish temp fl raw32 s) hf hclear]
    rfl

/-- Settles O24: the two branches of SET_BYPASS. -/
theorem setBypassReportsEdges : Obligations.SetBypassReportsEdges := by
  intro s v
  constructor
  · intro hv
    exact exec_setBypass_of_ne hv
  · intro hv
    exact exec_setBypass_of_eq hv

end Sys2Proof.Proofs
end

section
/-! The latch actions: when a button edge is accepted (rule R256), what the requests and the two handlers answer
(rules R254, R255, R257, R258), and runs of requests, which are single bits and are not counted (rule R260). -/

namespace Sys2Proof.Machine

/-! ## BTN_EDGE (rule R256) -/

theorem btnAccepted_iff {c : Config} {now : Word} {g : Signals} :
    btnAccepted c now g = true ↔ g.btnSeen = false ∨ c.btnDebounceMs ≤ (now - g.btnLastMs).toNat := by
  simp only [btnAccepted, Bool.or_eq_true, Bool.not_eq_true', decide_eq_true_eq]
  rfl

theorem btnAccepted_eq_false_iff {c : Config} {now : Word} {g : Signals} :
    btnAccepted c now g = false ↔ g.btnSeen = true ∧ (now - g.btnLastMs).toNat < c.btnDebounceMs := by
  rw [← Bool.not_eq_true, btnAccepted_iff, not_or, Bool.not_eq_false, Nat.not_le]

section
variable {s : State} {now : Word}

theorem exec_btnEdge_of_accepted (h : btnAccepted s.cfg now s.signals = true) :
    exec (.btnEdge now) s = done .nothing
      (s.setSignals { s.signals with resetPending := true, btnSeen := true, btnLastMs := now }) := by
  simp [exec, execBtnEdge, h]

theorem exec_btnEdge_of_ignored (h : btnAccepted s.cfg now s.signals = false) :
    exec (.btnEdge now) s = done .nothing s := by
  simp [exec, execBtnEdge, h]

end

/-! ## The states after a request and after a handler -/

/-- The state after REQ_RESET (rule R254). -/
def resetRequested (s : State) : State :=
  { s with signals := { s.signals with resetPending := true }, result := .nothing }

/-- The state after REQ_FORCE (rule R255). -/
def forceRequested (s : State) : State :=
  { s with signals := { s.signals with forcePending := true }, result := .nothing }

/-- The state after a DO_RESET that runs (rules R257, R253). -/
def rearmed (s : State) : State :=
  { s with
    signals := { s.signals with resetPending := false }
    safety  := ⟨false, false, false⟩
    latchQ  := List.replicate s.cfg.nLatch true
    events  := s.events ++ [.latchSeq .rearm]
    result  := .nothing }

/-- The state after a DO_FORCE that runs (rule R258). -/
def faulted (s : State) : State :=
  { s with
    signals := { s.signals with forcePending := false }
    safety  := ⟨true, true, true⟩
    latchQ  := List.replicate s.cfg.nLatch false
    events  := s.events ++ [.latchSeq .fault]
    result  := .nothing }

section
variable {s : State}

theorem exec_reqReset : exec .reqReset s = .next (resetRequested s) := rfl

theorem exec_reqForce : exec .reqForce s = .next (forceRequested s) := rfl

theorem exec_doReset_of_pending (h : s.signals.resetPending = true) : exec .doReset s = .next (rearmed s) := by
  simp [exec, execDoReset, h, clearSafetyFaults_eq, rearmed, done, State.setSignals, State.setResult]

theorem exec_doReset_of_idle (h : s.signals.resetPending = false) : exec .doReset s = .refused .noPendingReset := by
  simp [exec, execDoReset, h]

theorem exec_doForce_of_pending (h : s.signals.forcePending = true) : exec .doForce s = .next (faulted s) :=
  execDoForce_pending h

theorem exec_doForce_of_idle (h : s.signals.forcePending = false) : exec .doForce s = .refused .noPendingForce := by
  simp [exec, execDoForce, h]

end

/-! ## Runs of requests (rule R260) -/

theorem execAll_cons_of_refused {i : Instr} {s : State} {r : Refusal} (h : exec i s = .refused r) (is : List Instr) :
    execAll (i :: is) s = .refused r := by
  simp [execAll, h]

/-- An operation that does nothing more the second time: any number of it is one of it. -/
theorem execAll_replicate_append {i : Instr} {s t : State} (hi : exec i s = .next t) (hagain : exec i t = .next t)
    (n : Nat) (is : List Instr) : execAll (List.replicate (n + 1) i ++ is) s = execAll is t := by
  rw [List.replicate_succ, List.cons_append, execAll_cons_of_next hi]
  induction n with
  | zero => rfl
  | succ n ih => rw [List.replicate_succ, List.cons_append, execAll_cons_of_next hagain, ih]

section
variable {s : State}

theorem execAll_reqResets_append (n : Nat) (is : List Instr) :
    execAll (List.replicate (n + 1) .reqReset ++ is) s = execAll is (resetRequested s) :=
  execAll_replicate_append exec_reqReset exec_reqReset n is

theorem execAll_reqForces_append (n : Nat) (is : List Instr) :
    execAll (List.replicate (n + 1) .reqForce ++ is) s = execAll is (forceRequested s) :=
  execAll_replicate_append exec_reqForce exec_reqForce n is

/-- A pending reset is served by the first DO_RESET (rule R257). -/
theorem execAll_doReset_cons (h : s.signals.resetPending = true) (is : List Instr) :
    execAll (.doReset :: is) s = execAll is (rearmed s) :=
  execAll_cons_of_next (exec_doReset_of_pending h) is

/-- A pending force is served by the first DO_FORCE (rule R258). -/
theorem execAll_doForce_cons (h : s.signals.forcePending = true) (is : List Instr) :
    execAll (.doForce :: is) s = execAll is (faulted s) :=
  execAll_cons_of_next (exec_doForce_of_pending h) is

/-- However many requests, a second DO_RESET finds none pending. -/
theorem execAll_reqResets_twice (n : Nat) :
    execAll (List.replicate (n + 1) .reqReset ++ [.doReset, .doReset]) s = .refused .noPendingReset :=
  calc execAll (List.replicate (n + 1) .reqReset ++ [.doReset, .doReset]) s
    _ = execAll [.doReset, .doReset] (resetRequested s) := execAll_reqResets_append n _
    _ = execAll [.doReset] (rearmed (resetRequested s)) := execAll_doReset_cons rfl _
    _ = .refused .noPendingReset := execAll_cons_of_refused (exec_doReset_of_idle rfl) _

/-- However many requests, a second DO_FORCE finds none pending. -/
theorem execAll_reqForces_twice (n : Nat) :
    execAll (List.replicate (n + 1) .reqForce ++ [.doForce, .doForce]) s = .refused .noPendingForce :=
  calc execAll (List.replicate (n + 1) .reqForce ++ [.doForce, .doForce]) s
    _ = execAll [.doForce, .doForce] (forceRequested s) := execAll_reqForces_append n _
    _ = execAll [.doForce] (faulted (forceRequested s)) := execAll_doForce_cons rfl _
    _ = .refused .noPendingForce := execAll_cons_of_refused (exec_doForce_of_idle rfl) _

/-- Reset, then force: DO_RESET leaves the pending force, and the latches end in fault. -/
theorem execAll_doReset_doForce (hreset : s.signals.resetPending = true) (hforce : s.signals.forcePending = true) :
    execAll [.doReset, .doForce] s = .next (faulted (rearmed s)) :=
  calc execAll [.doReset, .doForce] s
    _ = execAll [.doForce] (rearmed s) := execAll_doReset_cons hreset _
    _ = .next (faulted (rearmed s)) := execAll_doForce_cons (s := rearmed s) hforce []

/-- Force, then reset: DO_FORCE leaves the pending reset, and the latches end armed. -/
theorem execAll_doForce_doReset (hreset : s.signals.resetPending = true) (hforce : s.signals.forcePending = true) :
    execAll [.doForce, .doReset] s = .next (rearmed (faulted s)) :=
  calc execAll [.doForce, .doReset] s
    _ = execAll [.doReset] (faulted s) := execAll_doForce_cons hforce _
    _ = .next (rearmed (faulted s)) := execAll_doReset_cons (s := faulted s) hreset []

end

end Sys2Proof.Machine

namespace Sys2Proof.Proofs

open Sys2Proof Sys2Proof.Machine

/-- Settles O26: a run of requests is one request (`execAll_replicate_append`), each handler clears its own bit and
leaves the other's. -/
theorem signalsAreNotCountedNorOrdered : Obligations.SignalsAreNotCountedNorOrdered := by
  intro s n
  refine ⟨exec_reqReset, exec_reqForce, ?_, execAll_reqResets_twice n, ?_, execAll_reqForces_twice n, ?_⟩
  · exact ⟨rearmed (resetRequested s), (execAll_reqResets_append n _).trans (execAll_doReset_cons rfl []), rfl⟩
  · exact ⟨faulted (forceRequested s), (execAll_reqForces_append n _).trans (execAll_doForce_cons rfl []), rfl⟩
  · intro hreset hforce
    exact ⟨_, _, execAll_doReset_doForce hreset hforce, execAll_doForce_doReset hreset hforce, rfl, rfl, rfl, rfl, rfl⟩

/-- Settles O25: the two answers of `btnAccepted`. -/
theorem buttonEdgeIsDebounced : Obligations.ButtonEdgeIsDebounced := by
  intro s now
  constructor
  · intro haccepted
    exact exec_btnEdge_of_accepted (btnAccepted_iff.2 haccepted)
  · intro hseen hwindow
    exact exec_btnEdge_of_ignored (btnAccepted_eq_false_iff.2 ⟨hseen, hwindow⟩)

/-- Settles O27: DO_RESET with and without a pending reset. -/
theorem doResetRearms : Obligations.DoResetRearms := by
  intro s
  constructor
  · intro hpending
    exact ⟨rearmed s, exec_doReset_of_pending hpending, rfl, rfl⟩
  · exact exec_doReset_of_idle

/-- Settles O28: DO_FORCE with and without a pending force. -/
theorem doForceFaults : Obligations.DoForceFaults := by
  intro s
  constructor
  · intro hpending
    exact ⟨faulted s, exec_doForce_of_pending hpending, rfl, rfl⟩
  · exact exec_doForce_of_idle

end Sys2Proof.Proofs
end

section
/-! The ring buffer driven directly by the Host: what RB_PUT, RB_GET and RB_WRITE answer on a buffer that no LinkDriver
drives (rules R271 to R273), the FIFO law over any run of puts and gets (rule R274), and who is refused (rules R275,
R441). -/

namespace Sys2Proof.Machine

/-! ## The link after a put and after a get -/

/-- The link after a RB_PUT that had room (rule R271). -/
def hostPut (c : Config) (b : Byte) (l : Link) : Link :=
  { l with
    user   := some .direct
    rbBuf  := l.rbBuf.set (ringIndex c l.rbHead) b
    rbHead := l.rbHead + 1 }

/-- The link after a RB_GET that found a byte (rule R272). -/
def hostGet (l : Link) : Link := { l with user := some .direct, rbTail := l.rbTail + 1 }

section
variable {c : Config} {l : Link}

theorem ringContents_hostPut (hw : c.wf = true) (hok : ringOk c l) (hroom : ringCount l ≠ c.rbN) (b : Byte) :
    ringOk c (hostPut c b l) ∧ ringContents c (hostPut c b l) = ringContents c l ++ [b] :=
  ringContents_put hw hok hroom rfl rfl rfl

theorem ringContents_hostGet (hok : ringOk c l) (hsome : ringCount l ≠ 0) :
    ringOk c (hostGet l)
      ∧ ringContents c l = l.rbBuf.getD (ringIndex c l.rbTail) 0 :: ringContents c (hostGet l) :=
  ringContents_get hok hsome rfl rfl rfl

end

/-! ## The three operations on a buffer that the Host may drive -/

section
variable {s : State} {link : Byte} {l : Link}

theorem exec_rbPut_of_full (hl : s.links[link.toNat]? = some l) (hu : l.user = none ∨ l.user = some .direct)
    (hfull : ringCount l = s.cfg.rbN) (b : Byte) :
    exec (.rbPut link b) s = done (.accepted false) (s.setLink link.toNat { l with user := some .direct }) := by
  change execRbPut link b s = _
  rw [execRbPut, onLink_eq hl, claimRing_eq_some hu]
  simp only [ringPut_full (l := { l with user := some .direct }) hfull]

theorem exec_rbPut_of_room (hl : s.links[link.toNat]? = some l) (hu : l.user = none ∨ l.user = some .direct)
    (hroom : ringCount l ≠ s.cfg.rbN) (b : Byte) :
    exec (.rbPut link b) s = done (.accepted true) (s.setLink link.toNat (hostPut s.cfg b l)) := by
  change execRbPut link b s = _
  rw [execRbPut, onLink_eq hl, claimRing_eq_some hu]
  simp only [ringPut_room (l := { l with user := some .direct }) hroom, hostPut]

theorem exec_rbGet_of_empty (hl : s.links[link.toNat]? = some l) (hu : l.user = none ∨ l.user = some .direct)
    (hempty : ringCount l = 0) :
    exec (.rbGet link) s = done (.byte none) (s.setLink link.toNat { l with user := some .direct }) := by
  change execRbGet link s = _
  rw [execRbGet, onLink_eq hl, claimRing_eq_some hu]
  simp only [ringGet_empty (l := { l with user := some .direct }) hempty]

theorem exec_rbGet_of_nonempty (hl : s.links[link.toNat]? = some l) (hu : l.user = none ∨ l.user = some .direct)
    (hsome : ringCount l ≠ 0) :
    exec (.rbGet link) s = done (.byte (some (l.rbBuf.getD (ringIndex s.cfg l.rbTail) 0)))
      (s.setLink link.toNat (hostGet l)) := by
  change execRbGet link s = _
  rw [execRbGet, onLink_eq hl, claimRing_eq_some hu]
  simp only [ringGet_some (l := { l with user := some .direct }) hsome, hostGet]

theorem exec_rbWrite_of_claimed (hl : s.links[link.toNat]? = some l) (hu : l.user = none ∨ l.user = some .direct)
    (bytes : List Byte) :
    exec (.rbWrite link bytes) s
      = done (.count (ringWrite s.cfg bytes { l with user := some .direct }).2)
          (s.setLink link.toNat (ringWrite s.cfg bytes { l with user := some .direct }).1) := by
  change execRbWrite link bytes s = _
  rw [execRbWrite, onLink_eq hl, claimRing_eq_some hu]

/-! ## The other agent is refused (rules R275, R441) -/

theorem claimRing_direct_of_driver (hu : l.user = some .driver) : claimRing .direct l = none :=
  claimRing_eq_none hu nofun

theorem claimRing_driver_of_direct (hu : l.user = some .direct) : claimRing .driver l = none :=
  claimRing_eq_none hu nofun

theorem exec_rbPut_of_driver (hl : s.links[link.toNat]? = some l) (hu : l.user = some .driver) (b : Byte) :
    exec (.rbPut link b) s = .refused .secondProducer := by
  change execRbPut link b s = _
  rw [execRbPut, onLink_eq hl, claimRing_direct_of_driver hu]

theorem exec_rbWrite_of_driver (hl : s.links[link.toNat]? = some l) (hu : l.user = some .driver)
    (bytes : List Byte) : exec (.rbWrite link bytes) s = .refused .secondProducer := by
  change execRbWrite link bytes s = _
  rw [execRbWrite, onLink_eq hl, claimRing_direct_of_driver hu]

theorem exec_rbGet_of_driver (hl : s.links[link.toNat]? = some l) (hu : l.user = some .driver) :
    exec (.rbGet link) s = .refused .secondConsumer := by
  change execRbGet link s = _
  rw [execRbGet, onLink_eq hl, claimRing_direct_of_driver hu]

theorem exec_ldRxByte_of_direct (hl : s.links[link.toNat]? = some l) (hu : l.user = some .direct) (b : Byte) :
    exec (.ldRxByte link b) s = .refused .secondProducer := by
  change execLdRxByte link b s = _
  rw [execLdRxByte, onLink_eq hl, claimRing_driver_of_direct hu]

theorem exec_ldPoll_of_direct (hl : s.links[link.toNat]? = some l) (hu : l.user = some .direct) :
    exec (.ldPoll link) s = .refused .secondConsumer := by
  change execLdPoll link s = _
  rw [execLdPoll, onLink_eq hl, claimRing_driver_of_direct hu]

/-- Whatever bytes arrive at its UART, the four frames' among them. -/
theorem receiveFrame_of_direct (hl : s.links[link.toNat]? = some l) (hu : l.user = some .direct)
    (bytes : List Byte) : receiveFrame link bytes s = .refused .secondProducer := by
  rw [receiveFrame, onLink_eq hl, claimRing_driver_of_direct hu]

end

/-! ## Runs of puts and gets (rule R274) -/

/-- The byte that an operation with this answer has accepted. -/
def RingOp.accepted : RingOp → OpResult → List Byte
  | .put b, .accepted true => [b]
  | _, _ => []

/-- The byte that an operation with this answer has returned. -/
def RingOp.returned : RingOp → OpResult → List Byte
  | .get, .byte (some b) => [b]
  | _, _ => []

theorem RingOp.accepted_eq_nil {op : RingOp} {r : OpResult}
    (h : ∀ b, op = .put b → r = .accepted true → False) : op.accepted r = [] := by
  unfold RingOp.accepted
  split
  · exact (h _ rfl rfl).elim
  · rfl

theorem RingOp.returned_eq_nil {op : RingOp} {r : OpResult}
    (h : ∀ b, op = .get → r = .byte (some b) → False) : op.returned r = [] := by
  unfold RingOp.returned
  split
  · exact (h _ rfl rfl).elim
  · rfl

/-- A run that begins with an operation accepts and returns what the operation does, then what the rest does. -/
theorem ringTrace_cons_of_next {link : Byte} {op : RingOp} {ops : List RingOp} {s t u : State} {puts gets : List Byte}
    (hop : exec (op.instr link) s = .next t) (hops : ringTrace link ops t = some (puts, gets, u)) :
    ringTrace link (op :: ops) s = some (op.accepted t.result ++ puts, op.returned t.result ++ gets, u) := by
  simp only [ringTrace, hop, hops]
  split
  · rename_i hresult
    simp only [hresult, RingOp.accepted, RingOp.returned, List.singleton_append, List.nil_append]
  · rename_i hresult
    simp only [hresult, RingOp.accepted, RingOp.returned, List.singleton_append, List.nil_append]
  · rename_i op _ _ hput hget
    rw [RingOp.accepted_eq_nil hput, RingOp.returned_eq_nil hget, List.nil_append, List.nil_append]

/-- The ring buffer of `link`, which is `l`, is consistent under an admitted configuration, and no LinkDriver drives
it. -/
structure HostRing (s : State) (link : Byte) (l : Link) : Prop where
  wf     : s.cfg.wf = true
  found  : s.links[link.toNat]? = some l
  ok     : ringOk s.cfg l
  byHost : l.user = none ∨ l.user = some .direct

namespace HostRing

variable {s : State} {link : Byte} {l : Link}

/-- An answer of the Host's own operations leaves the buffer to the Host. -/
theorem done (h : HostRing s link l) {l' : Link} (r : OpResult) (hok : ringOk s.cfg l')
    (hu : l'.user = some .direct) : HostRing ((s.setLink link.toNat l').setResult r) link l' where
  wf := h.wf
  found := by
    have hlt := (List.getElem?_eq_some_iff.1 h.found).1
    simp [hlt]
  ok := hok
  byHost := .inr hu

/-- One operation: what was queued, then accepted, is what is returned, then still queued. -/
theorem step (h : HostRing s link l) (op : RingOp) :
    ∃ t l', exec (op.instr link) s = .next t ∧ t.cfg = s.cfg ∧ HostRing t link l'
      ∧ ringContents s.cfg l ++ op.accepted t.result = op.returned t.result ++ ringContents s.cfg l' := by
  cases op with
  | put b =>
    by_cases hfull : ringCount l = s.cfg.rbN
    · exact ⟨_, _, exec_rbPut_of_full h.found h.byHost hfull b, rfl, h.done _ h.ok rfl, List.append_nil _⟩
    · obtain ⟨hok, hcontents⟩ := ringContents_hostPut h.wf h.ok hfull b
      exact ⟨_, _, exec_rbPut_of_room h.found h.byHost hfull b, rfl, h.done _ hok rfl, hcontents.symm⟩
  | get =>
    by_cases hempty : ringCount l = 0
    · exact ⟨_, _, exec_rbGet_of_empty h.found h.byHost hempty, rfl, h.done _ h.ok rfl, List.append_nil _⟩
    · obtain ⟨hok, hcontents⟩ := ringContents_hostGet h.ok hempty
      exact ⟨_, _, exec_rbGet_of_nonempty h.found h.byHost hempty, rfl, h.done _ hok rfl,
        (List.append_nil _).trans hcontents⟩

/-- The law of one operation over a whole run. -/
theorem run (ops : List RingOp) (h : HostRing s link l) :
    ∃ puts gets t l', ringTrace link ops s = some (puts, gets, t) ∧ t.cfg = s.cfg ∧ HostRing t link l'
      ∧ ringContents s.cfg l ++ puts = gets ++ ringContents s.cfg l' := by
  induction ops generalizing s l with
  | nil => exact ⟨[], [], s, l, rfl, rfl, h, List.append_nil _⟩
  | cons op ops ih =>
    obtain ⟨t, m, hop, hcfg, hm, hstep⟩ := h.step op
    obtain ⟨puts, gets, u, l', hops, hcfg', hl', hrun⟩ := ih hm
    refine ⟨_, _, u, l', ringTrace_cons_of_next hop hops, hcfg'.trans hcfg, hl', ?_⟩
    rw [hcfg] at hrun
    calc ringContents s.cfg l ++ (op.accepted t.result ++ puts)
      _ = op.returned t.result ++ (ringContents s.cfg m ++ puts) := by
        rw [← List.append_assoc, hstep, List.append_assoc]
      _ = (op.returned t.result ++ gets) ++ ringContents s.cfg l' := by rw [hrun, List.append_assoc]

end HostRing

end Sys2Proof.Machine

namespace Sys2Proof.Proofs

open Sys2Proof Sys2Proof.Machine

/-- Settles O32: by induction over the run (`HostRing.run`); from an empty buffer nothing was queued before, so what
was returned begins what was accepted. -/
theorem ringIsFifo : Obligations.RingIsFifo := by
  intro s link l ops hw hl hok hu
  obtain ⟨puts, gets, t, l', hrun, hcfg, ht, hlaw⟩ := HostRing.run ops ⟨hw, hl, hok, hu⟩
  refine ⟨puts, gets, t, l', hrun, ht.found, hcfg ▸ ht.ok, hlaw, fun hempty => ?_⟩
  rw [ringContents_eq_nil hempty, List.nil_append] at hlaw
  exact ⟨_, hlaw.symm⟩

/-- Settles O29: a full buffer, and one with room. -/
theorem rbPutQueuesOneByte : Obligations.RbPutQueuesOneByte := by
  intro s link b l hw hl hok hu
  constructor
  · intro hfull
    exact exec_rbPut_of_full hl hu hfull b
  · intro hroom
    exact ⟨hostPut s.cfg b l, exec_rbPut_of_room hl hu hroom b, rfl, ringContents_hostPut hw hok hroom b⟩

/-- Settles O30: an empty buffer, and one that holds a byte. -/
theorem rbGetTakesOldestByte : Obligations.RbGetTakesOldestByte := by
  intro s link l _ hl hok hu
  constructor
  · intro hempty
    exact exec_rbGet_of_empty hl hu hempty
  · intro hsome
    exact ⟨hostGet l, _, exec_rbGet_of_nonempty hl hu hsome, rfl, rfl, ringContents_hostGet hok hsome⟩

/-- Settles O31: RB_WRITE on the claimed link (`ringWrite_spec`). -/
theorem rbWriteQueuesWhatFits : Obligations.RbWriteQueuesWhatFits := by
  intro s link bytes l hw hl hok hu
  obtain ⟨hcount, hok', hcontents, hframe⟩ := ringWrite_spec hw bytes (l := { l with user := some .direct }) hok
  refine ⟨_, (exec_rbWrite_of_claimed hl hu bytes).trans ?_, hok', hcontents, hframe⟩
  rw [hcount]
  rfl

/-- Settles O33: the Host at a driver's buffer, then the driver at the Host's; each frame is the arrival of its bytes
(`receiveFrame_of_direct`). -/
theorem secondAgentIsRefused : Obligations.SecondAgentIsRefused := by
  intro s link b var bytes value l hl
  constructor
  · intro hu
    exact ⟨exec_rbPut_of_driver hl hu b, exec_rbWrite_of_driver hl hu bytes, exec_rbGet_of_driver hl hu⟩
  · intro hu
    have harrive := receiveFrame_of_direct hl hu
    exact ⟨exec_ldRxByte_of_direct hl hu b, exec_ldPoll_of_direct hl hu, harrive _, harrive _, harrive _, harrive _⟩

end Sys2Proof.Proofs
end

section
/-! The frame parser (spec 45_frame_parser.md): FP_FEED on the link it names (rule R286), FP_FEED of a list of bytes as
the parser alone run over them, and what the parser answers to noise and to one whole frame (rules R287 to R292,
R296). -/

namespace Sys2Proof.Machine

/-! ## FP_FEED and runs of FP_FEED -/

/-- FP_FEED on a link that exists: the parser's answer, and the link it leaves (rule R286). -/
theorem exec_fpFeed_eq {s : State} {link : Byte} {l : Link} (hl : s.links[link.toNat]? = some l) (b : Byte) :
    exec (.fpFeed link b) s
      = done (.frame (fpFeed s.cfg (roleOf s.cfg link.toNat) b l).2)
          (s.setLink link.toNat (fpFeed s.cfg (roleOf s.cfg link.toNat) b l).1) := by
  change execFpFeed link b s = _
  rw [execFpFeed, onLink_eq hl]

/-- A link that exists, replaced and read back. -/
theorem links_setLink_self {s : State} {k : Nat} {l : Link} (h : s.links[k]? = some l) (m : Link) (r : OpResult) :
    ((s.setLink k m).setResult r).links[k]? = some m := by
  have hlt := (List.getElem?_eq_some_iff.1 h).1
  simp [hlt]

/-- The parser of one link over a list of bytes: what each byte returned, and the link at the end. -/
def feedLink (c : Config) (role : Role) : List Byte → Link → List (Option ProtoFrame) × Link
  | [], l => ([], l)
  | b :: bs, l =>
    let r := fpFeed c role b l
    (r.2 :: (feedLink c role bs r.1).1, (feedLink c role bs r.1).2)

section
variable {c : Config} {role : Role} {l m l' : Link} {fs gs : List (Option ProtoFrame)}

theorem feedLink_cons_of_eq {b : Byte} {bs : List Byte} {f : Option ProtoFrame} (hb : fpFeed c role b l = (m, f))
    (hbs : feedLink c role bs m = (fs, l')) : feedLink c role (b :: bs) l = (f :: fs, l') := by
  simp only [feedLink, hb, hbs]

/-- Two runs of the parser, one after the other. -/
theorem feedLink_append_of_eq {as bs : List Byte} (ha : feedLink c role as l = (fs, m))
    (hb : feedLink c role bs m = (gs, l')) : feedLink c role (as ++ bs) l = (fs ++ gs, l') := by
  induction as generalizing l fs with
  | nil =>
    obtain ⟨rfl, rfl⟩ := Prod.mk.inj ha
    exact hb
  | cons a as ih =>
    obtain ⟨rfl, hm⟩ := Prod.mk.inj ha
    exact feedLink_cons_of_eq rfl (ih (Prod.ext rfl hm))

/-- Bytes before a START byte are ignored (rule R287). -/
theorem feedLink_noise {noise : List Byte} (hl : l.fpState = .waitStart) (h : ∀ b ∈ noise, b ≠ c.frameStart) :
    feedLink c role noise l = (List.replicate noise.length none, l) := by
  induction noise with
  | nil => rfl
  | cons b bs ih =>
    obtain ⟨hb, hbs⟩ := List.forall_mem_cons.1 h
    exact feedLink_cons_of_eq (fpFeed_noise hl hb) (ih hbs)

end

/-- FP_FEED of each byte in turn is `feedLink` on the link they name, and changes nothing else but the result. -/
theorem feedAll_of_feedLink {bs : List Byte} {s : State} {link : Byte} {l m : Link} {fs : List (Option ProtoFrame)}
    (hl : s.links[link.toNat]? = some l) (h : feedLink s.cfg (roleOf s.cfg link.toNat) bs l = (fs, m)) :
    ∃ r, feedAll link bs s = some (fs, (s.setLink link.toNat m).setResult r) := by
  induction bs generalizing s l fs with
  | nil =>
    obtain ⟨rfl, rfl⟩ := Prod.mk.inj h
    have hself : s.setLink link.toNat l = s := congrArg s.setLinks (links_set_self hl)
    rw [hself]
    exact ⟨s.result, rfl⟩
  | cons b bs ih =>
    obtain ⟨rfl, hm⟩ := Prod.mk.inj h
    let r := fpFeed s.cfg (roleOf s.cfg link.toNat) b l
    let t := (s.setLink link.toNat r.1).setResult (.frame r.2)
    have hstep : exec (.fpFeed link b) s = .next t := exec_fpFeed_eq hl b
    obtain ⟨res, hrest⟩ := ih (links_setLink_self hl r.1 (.frame r.2)) (Prod.ext rfl hm)
    refine ⟨res, ?_⟩
    simp only [feedAll, hstep, t, hrest]
    simp [State.setLink, State.setLinks, State.setResult, r]

/-! ## One frame, byte by byte -/

section
variable {c : Config} {role : Role} {l : Link}

/-- The link whose parser has taken `bs` of the `n` bytes of a frame; `rest` is what the buffer held behind them. -/
def accumulating (l : Link) (n : Nat) (bs rest : List Byte) : Link :=
  { l with fpBuf := bs ++ rest, fpIdx := bs.length, fpExpected := n, fpState := .accum }

/-- START and a command that fits are taken (rules R287, R288). -/
theorem feedLink_header {cmd : Byte} {n : Nat} (hl : l.fpState = .waitStart) (hn : frameLen c role cmd = n)
    (h0 : n ≠ 0) (hmax : n ≤ c.fpBufLen) (hbuf : 2 ≤ l.fpBuf.length) :
    feedLink c role [c.frameStart, cmd] l
      = ([none, none], accumulating l n [c.frameStart, cmd] (l.fpBuf.drop 2)) := by
  subst hn
  have hset : (l.fpBuf.set 0 c.frameStart).set 1 cmd = [c.frameStart, cmd] ++ l.fpBuf.drop 2 := by
    match l.fpBuf, hbuf with
    | _ :: _ :: _, _ => rfl
  refine feedLink_cons_of_eq (fpFeed_start hl rfl) (feedLink_cons_of_eq ((fpFeed_cmd rfl h0 hmax).trans ?_) rfl)
  simp only [hset]
  rfl

/-- The next byte is stored behind those taken. -/
theorem set_length_append {bs rest : List Byte} (h : 0 < rest.length) (b : Byte) :
    (bs ++ rest).set bs.length b = (bs ++ [b]) ++ rest.drop 1 := by
  match rest, h with
  | r :: rest, _ => simp

/-- Bytes before the last of a frame are taken (rule R289). -/
theorem feedLink_accumulating {n : Nat} {bs body rest : List Byte} (hn : bs.length + body.length < n)
    (hrest : body.length ≤ rest.length) :
    feedLink c role body (accumulating l n bs rest)
      = (List.replicate body.length none, accumulating l n (bs ++ body) (rest.drop body.length)) := by
  induction body generalizing bs rest with
  | nil => simp [feedLink]
  | cons b body ih =>
    rw [List.length_cons] at hn hrest
    have hstep : fpFeed c role b (accumulating l n bs rest) = (accumulating l n (bs ++ [b]) (rest.drop 1), none) := by
      rw [fpFeed_more rfl (show bs.length + 1 < n by omega)]
      simp only [accumulating, set_length_append (show 0 < rest.length by omega), List.length_append]
      rfl
    have hbody := ih (bs := bs ++ [b]) (rest := rest.drop 1) (by simp; omega) (by simp; omega)
    rw [List.append_assoc, List.drop_drop, Nat.add_comm 1] at hbody
    exact feedLink_cons_of_eq hstep hbody

/-- The last byte of a frame completes it if it is the END byte; either way the parser is reset (rules R289, R290). -/
theorem fpFeed_accumulating_last {n : Nat} {bs rest : List Byte} (hn : bs.length + 1 = n) (hrest : 0 < rest.length)
    (b : Byte) :
    fpFeed c role b (accumulating l n bs rest)
      = (fpReset { l with fpBuf := (bs ++ [b]) ++ rest.drop 1 },
         if b = c.frameEnd then some (fpDecode (accumulating l n (bs ++ [b]) (rest.drop 1))) else none) := by
  subst hn
  have hset := set_length_append (bs := bs) hrest b
  have hlast : ((bs ++ rest).set bs.length b).getD bs.length 0 = b := by rw [hset]; simp
  by_cases hb : b = c.frameEnd
  · rw [if_pos hb, fpFeed_done rfl le_rfl (hlast.trans hb)]
    simp only [accumulating, hset, List.length_append]
    rfl
  · rw [if_neg hb, fpFeed_badEnd rfl le_rfl (fun h => hb (hlast.symm.trans h))]
    simp only [accumulating, hset]
    rfl

/-- The bytes of a frame, whatever its last byte is: none returns a frame but a last byte that is END, and the parser is
reset after them (rules R286, R292). -/
theorem feedLink_frame {cmd last : Byte} {bytes body : List Byte}
    (hbytes : bytes = [c.frameStart, cmd] ++ body ++ [last]) (hl : l.fpState = .waitStart)
    (hn : frameLen c role cmd = bytes.length) (hmax : bytes.length ≤ c.fpBufLen)
    (hbuf : bytes.length ≤ l.fpBuf.length) :
    feedLink c role bytes l
      = (List.replicate (bytes.length - 1) none
          ++ [if last = c.frameEnd then
                some (fpDecode (accumulating l bytes.length bytes (l.fpBuf.drop bytes.length)))
              else none],
         fpReset { l with fpBuf := bytes ++ l.fpBuf.drop bytes.length }) := by
  have hlen : bytes.length = body.length + 3 := by simp [hbytes]
  have hheader := feedLink_header hl hn (by omega) hmax (by omega)
  have hbody := feedLink_accumulating (c := c) (role := role) (l := l) (n := bytes.length)
    (bs := [c.frameStart, cmd]) (body := body) (rest := l.fpBuf.drop 2) (by simp; omega) (by simp; omega)
  have hlast := fpFeed_accumulating_last (c := c) (role := role) (l := l) (n := bytes.length)
    (bs := [c.frameStart, cmd] ++ body) (rest := l.fpBuf.drop (2 + body.length)) (by simp; omega) (by simp; omega) last
  rw [List.drop_drop] at hbody
  rw [← hbytes, List.drop_drop, show 2 + body.length + 1 = bytes.length by omega] at hlast
  have hend : feedLink c role [last] _ = _ := feedLink_cons_of_eq hlast rfl
  have hfeed := feedLink_append_of_eq (feedLink_append_of_eq hheader hbody) hend
  rw [← hbytes] at hfeed
  rw [hfeed, hlen, Nat.add_sub_assoc (by decide), Nat.add_comm]
  rfl

/-- The fields read from a frame are those it was built from, and its last byte is none of them (rule R291). -/
theorem fpDecode_accumulating {bytes : List Byte} {cmd var last : Byte} {value : Option Half}
    (hbytes : bytes = [c.frameStart, cmd, var] ++ (value.map le16).getD [] ++ [last]) (l : Link) (rest : List Byte) :
    fpDecode (accumulating l bytes.length bytes rest) = ⟨cmd, var, value.isSome, value.getD 0⟩ := by
  subst hbytes
  cases value with
  | none => rfl
  | some v => simp [fpDecode, accumulating, le16]

/-- Rule R296 for the parser alone: a frame with any last byte, which completes it if it is END, and after which the
parser is reset over a buffer of the same length. -/
theorem feedLink_frame_fields {bytes : List Byte} {cmd var last : Byte} {value : Option Half}
    (hbytes : bytes = [c.frameStart, cmd, var] ++ (value.map le16).getD [] ++ [last]) (hl : l.fpState = .waitStart)
    (hn : frameLen c role cmd = bytes.length) (hmax : bytes.length ≤ c.fpBufLen) (hbuf : l.fpBuf.length = c.fpBufLen) :
    ∃ buf, feedLink c role bytes l
        = (List.replicate (bytes.length - 1) none
            ++ [if last = c.frameEnd then some ⟨cmd, var, value.isSome, value.getD 0⟩ else none],
           fpReset { l with fpBuf := buf })
      ∧ buf.length = c.fpBufLen := by
  have hfeed := feedLink_frame (body := var :: (value.map le16).getD []) hbytes hl hn hmax (hbuf ▸ hmax)
  rw [fpDecode_accumulating hbytes] at hfeed
  exact ⟨_, hfeed, by simp; omega⟩

end

end Sys2Proof.Machine

namespace Sys2Proof.Proofs

open Sys2Proof Sys2Proof.Machine

/-- Settles O35: noise (`feedLink_noise`), and a frame with each of the two end bytes (`feedLink_frame_fields`); after
the bad one the parser is reset, so the good one parses as from any WAIT_START. -/
theorem wellFormedFrameParses : Obligations.WellFormedFrameParses := by
  intro s link cmd var last value noise l hl hwait hbuf good bad silence frame hn hmax hlast hnoise
  have hlen : bad.length = good.length := by simp [bad, good]
  obtain ⟨_, hgood, -⟩ := feedLink_frame_fields (bytes := good) rfl hwait hn hmax hbuf
  obtain ⟨_, hbad, hbuf'⟩ := feedLink_frame_fields (bytes := bad) rfl hwait (hn.trans hlen.symm) (hlen ▸ hmax) hbuf
  obtain ⟨_, hnext, -⟩ :=
    feedLink_frame_fields (bytes := good) (l := fpReset { l with fpBuf := _ }) rfl rfl hn hmax hbuf'
  rw [if_pos rfl] at hgood hnext
  rw [if_neg hlast, hlen] at hbad
  refine ⟨?noise, ?good, ?bad, ?badThenGood⟩
  case noise =>
    obtain ⟨_, h⟩ := feedAll_of_feedLink hl (feedLink_noise hwait hnoise)
    exact ⟨_, h, links_set_self hl⟩
  case good =>
    obtain ⟨r, h⟩ := feedAll_of_feedLink hl hgood
    exact ⟨_, _, h, links_setLink_self hl _ r, rfl, rfl, rfl⟩
  case bad =>
    obtain ⟨r, h⟩ := feedAll_of_feedLink hl hbad
    exact ⟨_, _, h, links_setLink_self hl _ r, rfl, rfl, rfl⟩
  case badThenGood =>
    obtain ⟨_, h⟩ := feedAll_of_feedLink hl (feedLink_append_of_eq hbad hnext)
    exact ⟨_, (List.append_assoc (silence ++ [none]) silence [some frame]) ▸ h⟩

/-- Settles O34: FP_FEED is `fpFeed` on its link (`exec_fpFeed_eq`), and each case is the law of the parser for it
(`fpFeed_noise` to `fpFeed_done`). -/
theorem fpFeedFollowsStateMachine : Obligations.FpFeedFollowsStateMachine := by
  intro s link b l hl n buf back f
  rw [exec_fpFeed_eq hl]
  refine ⟨?ignored, ?started, ?rejected, ?lengthTaken, ?accumulated, ?badEnd, ?completed⟩
  case ignored =>
    intro hstate hb
    rw [fpFeed_noise hstate hb, State.setLink, links_set_self hl]
    rfl
  case started =>
    intro hstate hb
    rw [fpFeed_start hstate hb]
    rfl
  case rejected =>
    intro hstate hn
    rw [fpFeed_badCmd hstate hn]
    rfl
  case lengthTaken =>
    intro hstate h0 hmax
    rw [fpFeed_cmd hstate h0 hmax]
    rfl
  case accumulated =>
    intro hstate hmore
    rw [fpFeed_more hstate hmore]
    rfl
  case badEnd =>
    intro hstate hlast hend
    rw [fpFeed_badEnd hstate hlast hend]
    rfl
  case completed =>
    intro hstate hlast hend
    rw [fpFeed_done hstate hlast hend]
    rfl

end Sys2Proof.Proofs
end

section
/-! The link driver (spec 46_link_driver.md): queueing a byte (rule R311), polling as the parser run over everything
queued (rules R312, R313), a whole frame at an idle link (rules R314 to R317), sending (rules R318 to R321), and what an
operation on one link has to do with the others (rule R324). -/

namespace Sys2Proof.Machine

/-! ## LD_RX_BYTE (rules R311, R395) -/

section
variable {c : Config} {b : Byte} {l : Link}

theorem rxByte_full (h : ringCount l = c.rbN) : rxByte c b l = { l with rxNotify := true } := by
  simp only [rxByte, ringPut_full h]

theorem rxByte_room (h : ringCount l ≠ c.rbN) :
    rxByte c b l
      = { l with rbBuf := l.rbBuf.set (ringIndex c l.rbHead) b, rbHead := l.rbHead + 1, rxNotify := true } := by
  simp only [rxByte, ringPut_room h]

theorem ringContents_rxByte (hw : c.wf = true) (hok : ringOk c l) (hroom : ringCount l ≠ c.rbN) :
    ringOk c (rxByte c b l) ∧ ringContents c (rxByte c b l) = ringContents c l ++ [b] := by
  rw [rxByte_room hroom]
  exact ringContents_put hw hok hroom rfl rfl rfl

/-- Bytes for which there is room are queued in order, and the parser and the user of the link are left alone. -/
theorem rxBytes_spec {bytes : List Byte} (hw : c.wf = true) (hok : ringOk c l)
    (hfit : ringCount l + bytes.length ≤ c.rbN) :
    let m := bytes.foldl (fun l b => rxByte c b l) l
    ringOk c m ∧ ringContents c m = ringContents c l ++ bytes
      ∧ m = { l with rbBuf := m.rbBuf, rbHead := m.rbHead, rxNotify := m.rxNotify } := by
  induction bytes generalizing l with
  | nil => exact ⟨hok, (List.append_nil _).symm, rfl⟩
  | cons b bs ih =>
    rw [List.length_cons] at hfit
    have hroom : ringCount l ≠ c.rbN := by omega
    obtain ⟨hok', hcontents⟩ := ringContents_rxByte (b := b) hw hok hroom
    have hcount : ringCount (rxByte c b l) = ringCount l + 1 := by
      simpa using congrArg List.length hcontents
    obtain ⟨hokm, hcontentsm, hframe⟩ := ih hok' (by omega)
    refine ⟨hokm, ?_, ?_⟩
    · rw [List.foldl_cons, hcontentsm, hcontents, List.append_assoc, List.singleton_append]
    · rw [List.foldl_cons, hframe, rxByte_room hroom]

end

/-! ## LD_POLL (rules R312, R313) -/

/-- The link as its driver leaves it: everything up to `tail` is consumed, the wake-up and the user are as given, and
the parser is that of `l`. -/
def Link.driven (l : Link) (tail : Half) (notify : Bool) (user : Option RingUser) : Link :=
  { l with rbTail := tail, rxNotify := notify, user := user }

theorem dispatchFrame_eq_callbacks (c : Config) (f : ProtoFrame) : dispatchFrame c f = callbacks c f := by
  unfold dispatchFrame callbacks
  split_ifs <;> rfl

/-- The callbacks of the frames among what the parser returned, in order (rule R313). -/
def allCallbacks (c : Config) (fs : List (Option ProtoFrame)) : List Event := (fs.filterMap id).flatMap (callbacks c)

theorem allCallbacks_cons (c : Config) (o : Option ProtoFrame) (fs : List (Option ProtoFrame)) :
    allCallbacks c (o :: fs) = (o.map (dispatchFrame c)).getD [] ++ allCallbacks c fs := by
  cases o with
  | none => rfl
  | some f => simp [allCallbacks, dispatchFrame_eq_callbacks]

/-- The callbacks of a run of the parser in which the last byte alone completes a frame. -/
theorem allCallbacks_silence_append (c : Config) (n : Nat) (f : ProtoFrame) :
    allCallbacks c (List.replicate n none ++ [some f]) = callbacks c f := by
  simp [allCallbacks, List.filterMap_append, List.filterMap_replicate_of_none]

section
variable {c : Config} {role : Role} {l : Link}

/-- The parser reads nothing that the driver writes besides it. -/
theorem fpFeed_driven (b : Byte) (tail : Half) (notify : Bool) (user : Option RingUser) :
    fpFeed c role b (l.driven tail notify user)
      = ((fpFeed c role b l).1.driven tail notify user, (fpFeed c role b l).2) := by
  cases hs : l.fpState with
  | waitStart => by_cases hb : b = c.frameStart <;> simp [fpFeed, Link.driven, hs, hb]
  | waitLen =>
    by_cases hn : frameLen c role b = 0 ∨ c.fpBufLen < frameLen c role b <;>
      simp [fpFeed, fpReset, Link.driven, hs, hn]
  | accum =>
    by_cases hmore : l.fpIdx + 1 < l.fpExpected
    · simp [fpFeed, Link.driven, hs, hmore]
    · by_cases hend : (l.fpBuf.set l.fpIdx b).getD (l.fpExpected - 1) 0 = c.frameEnd
      · rw [fpFeed_done hs (Nat.not_lt.1 hmore) hend]
        exact fpFeed_done (l := l.driven tail notify user) hs (Nat.not_lt.1 hmore) hend
      · rw [fpFeed_badEnd hs (Nat.not_lt.1 hmore) hend]
        exact fpFeed_badEnd (l := l.driven tail notify user) hs (Nat.not_lt.1 hmore) hend

theorem feedLink_driven (bs : List Byte) (tail : Half) (notify : Bool) (user : Option RingUser) :
    feedLink c role bs (l.driven tail notify user)
      = ((feedLink c role bs l).1, (feedLink c role bs l).2.driven tail notify user) := by
  induction bs generalizing l with
  | nil => rfl
  | cons b bs ih => exact feedLink_cons_of_eq (fpFeed_driven b tail notify user) ih

theorem fpFeed_rbBuf (b : Byte) : (fpFeed c role b l).1.rbBuf = l.rbBuf := by rw [(fpFeed_frame c role b l).1]

theorem fpFeed_rbHead (b : Byte) : (fpFeed c role b l).1.rbHead = l.rbHead := by rw [(fpFeed_frame c role b l).1]

theorem feedLink_rbHead (bs : List Byte) : (feedLink c role bs l).2.rbHead = l.rbHead := by
  induction bs generalizing l with
  | nil => rfl
  | cons b bs ih => exact ih.trans (fpFeed_rbHead b)

/-- Draining is the parser run over everything queued, with the callbacks of what it completes. -/
theorem drain_eq_feedLink {n : Nat} (hok : ringOk c l) (hn : ringCount l = n) :
    drain c role n l
      = ((feedLink c role (ringContents c l) l).2.driven l.rbHead l.rxNotify l.user,
         allCallbacks c (feedLink c role (ringContents c l) l).1) := by
  induction n generalizing l with
  | zero =>
    have htail : l.rbTail = l.rbHead := by simpa [hn] using head_eq_tail_add l
    rw [ringContents_eq_nil hn, ← htail]
    rfl
  | succ n ih =>
    have hsome : ringCount l ≠ 0 := by omega
    let b := l.rbBuf.getD (ringIndex c l.rbTail) 0
    let r := fpFeed c role b l
    -- the link after the oldest byte: consumed, and gone through the parser
    let m := r.1.driven (l.rbTail + 1) l.rxNotify l.user
    have hfeed : fpFeed c role b { l with rbTail := l.rbTail + 1 } = (m, r.2) := fpFeed_driven b _ l.rxNotify l.user
    have hdrain : drain c role (n + 1) l
        = ((drain c role n m).1, (r.2.map (dispatchFrame c)).getD [] ++ (drain c role n m).2) := by
      rw [drain_succ hsome, hfeed]
    have hbuf : m.rbBuf = l.rbBuf := fpFeed_rbBuf b
    have hhead : m.rbHead = l.rbHead := fpFeed_rbHead b
    have hcount : ringCount m + 1 = ringCount l := ringCount_get hhead rfl hsome
    obtain ⟨hokm, hcontents⟩ := ringContents_get (l' := m) hok hsome hbuf hhead rfl
    rw [hdrain, ih hokm (by omega), hcontents, feedLink_driven, feedLink, allCallbacks_cons, hhead]
    rfl

/-- LD_POLL on its link: the wake-up is cleared, everything queued has gone through the parser. -/
theorem pollLink_eq_feedLink (hok : ringOk c l) :
    pollLink c role l
      = ((feedLink c role (ringContents c l) l).2.driven l.rbHead false l.user,
         allCallbacks c (feedLink c role (ringContents c l) l).1) := by
  have hdrain := drain_eq_feedLink (role := role) (l := l.driven l.rbTail false l.user) hok rfl
  rw [feedLink_driven] at hdrain
  exact hdrain

/-- LD_POLL as the parser run over what is queued (rules R312, R313). -/
theorem exec_ldPoll_eq {s : State} {link : Byte} (hl : s.links[link.toNat]? = some l)
    (hu : l.user = none ∨ l.user = some .driver) (hok : ringOk s.cfg l) {fs : List (Option ProtoFrame)} {p : Link}
    (hfeed : feedLink s.cfg (roleOf s.cfg link.toNat) (ringContents s.cfg l) l = (fs, p)) :
    exec (.ldPoll link) s
      = done .nothing ((s.setLink link.toNat (p.driven l.rbHead false (some .driver))).emitAll
          (allCallbacks s.cfg fs)) := by
  let claimed := l.driven l.rbTail l.rxNotify (some .driver)
  have hclaimed : ringContents s.cfg claimed = ringContents s.cfg l := rfl
  have hpoll : pollLink s.cfg (roleOf s.cfg link.toNat) claimed
      = (p.driven l.rbHead false (some .driver), allCallbacks s.cfg fs) := by
    rw [pollLink_eq_feedLink (l := claimed) hok, hclaimed, feedLink_driven, hfeed]
    rfl
  rw [execLdPoll_eq_receiveFrame hl hu, receiveFrame_eq hl hu]
  exact congrArg (fun r => done .nothing ((s.setLink link.toNat r.1).emitAll r.2)) hpoll

theorem ringCount_driven_rbHead (notify : Bool) (user : Option RingUser) :
    ringCount (l.driven l.rbHead notify user) = 0 := by
  simp [ringCount, Link.driven]

end

/-! ## A whole frame at an idle link (rules R314 to R317) -/

theorem length_frameBytes (c : Config) (cmd var : Byte) (value : Option Half) :
    (frameBytes c cmd var value).length = if value.isSome then 6 else 4 := by
  cases value <;> rfl

section
variable {c : Config} {role : Role}

/-- A READ frame from the other end has the length its role expects: a reply with a value at a master, a request
without one at a slave (rule R122). -/
theorem frameLen_cmdRead (hw : c.wf = true) : frameLen c role c.cmdRead = if role = .master then 6 else 4 := by
  obtain ⟨hrw, hra, -⟩ := Config.wf_commands hw
  cases role <;> simp [frameLen, hrw, hra]

theorem frameLen_cmdWrite : frameLen c role c.cmdWrite = 6 := by simp [frameLen]

theorem frameLen_cmdAck : frameLen c role c.cmdAck = 6 := by simp [frameLen]

theorem callbacks_cmdAck (var : Byte) (hasValue : Bool) (value : Half) :
    callbacks c ⟨c.cmdAck, var, hasValue, value⟩
      = [.frameRx ⟨c.cmdAck, var, hasValue, value⟩, .ackRx var value] := by
  simp [callbacks]

theorem callbacks_cmdWrite (hw : c.wf = true) (var : Byte) (hasValue : Bool) (value : Half) :
    callbacks c ⟨c.cmdWrite, var, hasValue, value⟩ = [.frameRx ⟨c.cmdWrite, var, hasValue, value⟩] := by
  obtain ⟨hrw, -, hwa⟩ := Config.wf_commands hw
  simp [callbacks, hwa, hrw.symm]

theorem callbacks_cmdRead (hw : c.wf = true) (var : Byte) (hasValue : Bool) (value : Half) :
    callbacks c ⟨c.cmdRead, var, hasValue, value⟩
      = .frameRx ⟨c.cmdRead, var, hasValue, value⟩ :: if hasValue then [.readDataRx var value] else [] := by
  obtain ⟨-, hra, -⟩ := Config.wf_commands hw
  simp [callbacks, hra]

end

/-- The link is `l`, which the Host does not drive; nothing is queued, the parser is in WAIT_START, and both buffers
hold a frame. -/
structure IdleLink (s : State) (link : Byte) (l : Link) : Prop where
  wf       : s.cfg.wf = true
  found    : s.links[link.toNat]? = some l
  byDriver : l.user = none ∨ l.user = some .driver
  ok       : ringOk s.cfg l
  empty    : ringCount l = 0
  waiting  : l.fpState = .waitStart
  buffer   : l.fpBuf.length = s.cfg.fpBufLen
  parses   : 6 ≤ s.cfg.fpBufLen
  fits     : 6 ≤ s.cfg.rbN

/-- A frame of the length its command has at this role is delivered with its callbacks, and leaves the link idle. -/
theorem IdleLink.delivers {s : State} {link : Byte} {l : Link} (h : IdleLink s link l) {cmd var : Byte}
    {value : Option Half}
    (hlen : frameLen s.cfg (roleOf s.cfg link.toNat) cmd = if value.isSome then 6 else 4) :
    ∃ t, receiveFrame link (frameBytes s.cfg cmd var value) s = .next t
      ∧ t = { s with
          links  := t.links
          events := s.events ++ callbacks s.cfg ⟨cmd, var, value.isSome, value.getD 0⟩
          result := .nothing }
      ∧ ∃ l', t.links = s.links.set link.toNat l' ∧ ringCount l' = 0 ∧ l'.fpState = .waitStart
          ∧ l'.rxNotify = false := by
  have hsize := length_frameBytes s.cfg cmd var value
  have hsix : (frameBytes s.cfg cmd var value).length ≤ 6 := by rw [hsize]; split <;> omega
  have hparses := h.parses
  have hfits := h.fits
  have hempty : ringCount { l with user := some .driver } = 0 := h.empty
  obtain ⟨hok, hcontents, hframe⟩ := rxBytes_spec (l := { l with user := some .driver })
    (bytes := frameBytes s.cfg cmd var value) h.wf h.ok (by omega)
  rw [ringContents_eq_nil hempty, List.nil_append] at hcontents
  rw [receiveFrame_eq h.found h.byDriver]
  generalize (frameBytes s.cfg cmd var value).foldl _ _ = m at hok hcontents hframe
  obtain ⟨buf, hfeed, -⟩ := feedLink_frame_fields (role := roleOf s.cfg link.toNat) (l := m)
    (bytes := frameBytes s.cfg cmd var value) rfl (by rw [hframe]; exact h.waiting) (hlen.trans hsize.symm)
    (by omega) (by rw [hframe]; exact h.buffer)
  rw [if_pos rfl] at hfeed
  rw [pollLink_eq_feedLink hok, hcontents, hfeed, allCallbacks_silence_append]
  exact ⟨_, rfl, rfl, _, rfl, ringCount_driven_rbHead (l := fpReset { m with fpBuf := buf }) _ _, rfl, rfl⟩

/-! ## LD_SEND, LD_WRITE_U16, LD_READ_U16 (rules R318 to R321) -/

theorem sendable_iff {c : Config} {cmd : Byte} {hasValue : Bool} :
    sendable c cmd hasValue = true ↔ (cmd = c.cmdWrite ∨ cmd = c.cmdAck) ∧ hasValue = true ∨ cmd = c.cmdRead := by
  simp [sendable]

theorem frameBytes_valuePart (c : Config) (cmd var : Byte) (hasValue : Bool) (value : Half) :
    frameBytes c cmd var (valuePart hasValue value)
      = [c.frameStart, cmd, var]
        ++ (if hasValue then [value.extractLsb' 0 8, value.extractLsb' 8 8] else []) ++ [c.frameEnd] := by
  cases hasValue <;> rfl

/-- The transmission whose result is returned is among the events added (rule R321). -/
theorem sendFrame_reports (cmd var : Byte) (value : Option Half) (s : State) :
    ∃ r, (sendFrame cmd var value s).result = .sent r
      ∧ .tx (frameBytes s.cfg cmd var value) r ∈ (sendFrame cmd var value s).events.drop s.events.length := by
  refine ⟨s.draws.txAnswer, ?_⟩
  simp [sendFrame_eq]

section
variable {s : State} {link : Byte} {l : Link}

theorem exec_ldSend_of_sendable (hl : s.links[link.toNat]? = some l) {cmd var : Byte} {hasValue : Bool} {value : Half}
    (h : sendable s.cfg cmd hasValue = true) :
    exec (.ldSend link cmd var hasValue value) s = .next (sendFrame cmd var (valuePart hasValue value) s) := by
  change execLdSend link cmd var hasValue value s = _
  rw [execLdSend, onLink_eq hl, if_pos h]

theorem exec_ldSend_of_not_sendable (hl : s.links[link.toNat]? = some l) {cmd var : Byte} {hasValue : Bool}
    {value : Half} (h : ¬sendable s.cfg cmd hasValue = true) :
    exec (.ldSend link cmd var hasValue value) s = .refused .notASendableFrame := by
  change execLdSend link cmd var hasValue value s = _
  rw [execLdSend, onLink_eq hl, if_neg h]

theorem exec_ldWriteU16_eq (hl : s.links[link.toNat]? = some l) (var : Byte) (value : Half) :
    exec (.ldWriteU16 link var value) s = .next (sendFrame s.cfg.cmdWrite var (some value) s) :=
  onLink_eq hl _

theorem exec_ldReadU16_eq (hl : s.links[link.toNat]? = some l) (var : Byte) :
    exec (.ldReadU16 link var) s = .next (sendFrame s.cfg.cmdRead var none s) :=
  onLink_eq hl _

end

/-! ## The other links (rule R324) -/

/-- What `f` answers at `s`, where link `k` is `l`: if a next state, link `k` alone is written, and with any other
links beside `l` the answer is the same but for them. -/
def AnswerLocal (s : State) (k : Nat) (l : Link) (f : State → Host.Outcome State Fault Refusal) : Prop :=
  ∀ t, f s = .next t → ∃ l', t.links = s.links.set k l'
    ∧ ∀ other : List Link, other[k]? = some l →
        f { s with links := other } = .next { t with links := other.set k l' }

section
variable {s : State} {k : Nat} {l : Link} {f : State → Host.Outcome State Fault Refusal}

theorem AnswerLocal.refused {r : Refusal} : AnswerLocal s k l fun _ => .refused r := fun _ h => nomatch h

/-- An answer that replaces link `k`. -/
theorem AnswerLocal.next {t : State} {l' : Link} (hf : f s = .next t) (ht : t.links = s.links.set k l')
    (hother : ∀ other : List Link, f { s with links := other } = .next { t with links := other.set k l' }) :
    AnswerLocal s k l f := by
  intro u hu
  obtain rfl : t = u := Host.Outcome.next.inj (hf.symm.trans hu)
  exact ⟨l', ht, fun other _ => hother other⟩

/-- A transmission neither reads nor writes the links (rule R318). -/
theorem sendFrame_withLinks (cmd var : Byte) (value : Option Half) (s : State) (other : List Link) :
    sendFrame cmd var value { s with links := other } = { sendFrame cmd var value s with links := other } := by
  simp only [sendFrame_eq]

theorem AnswerLocal.sendFrame (hl : s.links[k]? = some l) (cmd : Config → Byte) (var : Byte) (value : Option Half) :
    AnswerLocal s k l fun s => .next (sendFrame (cmd s.cfg) var value s) := by
  rintro _ ⟨⟩
  refine ⟨l, ?_, fun other hother => ?_⟩
  · rw [links_set_self hl, sendFrame_eq]
  · have hself : other.set k l = other := links_set_self (s := { s with links := other }) hother
    rw [hself, ← sendFrame_withLinks]

end

/-- At every state, `f` writes no link but `link`, and reads no other (rule R324). -/
def LocalTo (link : Byte) (f : State → Host.Outcome State Fault Refusal) : Prop :=
  ∀ s t, f s = .next t →
    (∀ j, j ≠ link.toNat → t.links[j]? = s.links[j]?)
    ∧ ∀ other : List Link, other[link.toNat]? = s.links[link.toNat]? →
        ∃ u, f { s with links := other } = .next u ∧ u.links[link.toNat]? = t.links[link.toNat]?
          ∧ (∀ j, j ≠ link.toNat → u.links[j]? = other[j]?) ∧ u = { t with links := u.links }

/-- An operation on a link is local if what it does with the link it finds is. -/
theorem LocalTo.onLink {link : Byte} {f : State → Link → Host.Outcome State Fault Refusal}
    (h : ∀ s l, s.links[link.toNat]? = some l → AnswerLocal s link.toNat l fun s => f s l) :
    LocalTo link fun s => onLink link s (f s) := by
  intro s t ht
  cases hl : s.links[link.toNat]? with
  | none => simp [Machine.onLink, hl] at ht
  | some l =>
    have ht : f s l = .next t := (onLink_eq hl (f s)).symm.trans ht
    obtain ⟨l', hlinks, hlocal⟩ := h s l hl t ht
    have hlt := (List.getElem?_eq_some_iff.1 hl).1
    refine ⟨fun j hj => ?_, fun other hother => ?_⟩
    · rw [hlinks, List.getElem?_set_ne hj.symm]
    · have hlt' := (List.getElem?_eq_some_iff.1 hother).1
      refine ⟨_, (onLink_eq (s := { s with links := other }) hother _).trans (hlocal other hother), ?_, ?_, rfl⟩
      · rw [hlinks, List.getElem?_set_self hlt, List.getElem?_set_self hlt']
      · exact fun j hj => List.getElem?_set_ne hj.symm

/-- The same for an operation on its ring buffer, which is claimed first (rules R275, R441). -/
theorem LocalTo.onClaimed {link : Byte} {u : RingUser} {r : Refusal}
    {f : State → Link → Host.Outcome State Fault Refusal}
    (h : ∀ s l m, AnswerLocal s link.toNat l fun s => f s m) :
    LocalTo link fun s => Machine.onLink link s fun l =>
      match claimRing u l with
      | none => .refused r
      | some l => f s l := by
  refine .onLink fun s l _ => ?_
  cases claimRing u l with
  | none => exact .refused
  | some m => exact h s l m

theorem execLdSend_local (link cmd var : Byte) (hasValue : Bool) (value : Half) :
    LocalTo link (execLdSend link cmd var hasValue value) := by
  refine .onLink fun s l hl => ?_
  by_cases hsend : sendable s.cfg cmd hasValue = true
  · simpa [AnswerLocal, hsend] using AnswerLocal.sendFrame hl (fun _ => cmd) var (valuePart hasValue value)
  · simp [AnswerLocal, hsend]

/-- Every operation that names a link is local to it. -/
theorem exec_local {i : Instr} {link : Byte} (hi : i.link? = some link) : LocalTo link (exec i) := by
  cases i with
  | frameReadReq _ _ | frameReadReply _ _ _ | frameWrite _ _ _ | frameAck _ _ _ | rbPut _ _ | rbGet _ | rbWrite _ _
  | ldRxByte _ _ | ldPoll _ =>
    cases hi
    exact .onClaimed fun _ _ _ => .next rfl rfl fun _ => rfl
  | fpFeed _ _ =>
    cases hi
    exact .onLink fun _ _ _ => .next rfl rfl fun _ => rfl
  | ldWriteU16 _ var value =>
    cases hi
    exact .onLink fun _ _ hl => .sendFrame hl Config.cmdWrite var (some value)
  | ldReadU16 _ var =>
    cases hi
    exact .onLink fun _ _ hl => .sendFrame hl Config.cmdRead var none
  | ldSend _ cmd var hasValue value =>
    cases hi
    exact execLdSend_local link cmd var hasValue value
  | _ => cases hi

end Sys2Proof.Machine

namespace Sys2Proof.Proofs

open Sys2Proof Sys2Proof.Machine

/-- Settles O36: a full buffer, and one with room (`rxByte_full`, `rxByte_room`). -/
theorem rxByteIsQueued : Obligations.RxByteIsQueued := by
  intro s link b l hw hl hok hu
  rw [execLdRxByte_eq hl hu]
  constructor
  · intro hfull
    rw [rxByte_full (l := { l with user := some .driver }) hfull]
    rfl
  · intro hroom
    exact ⟨_, rfl, (ringContents_rxByte (l := { l with user := some .driver }) hw hok hroom).2,
      rxByte_room (l := { l with user := some .driver }) hroom⟩

/-- Settles O37: LD_POLL (`exec_ldPoll_eq`) and the FP_FEEDs (`feedAll_of_feedLink`) are the same run of the parser. -/
theorem pollDrainsAndDispatches : Obligations.PollDrainsAndDispatches := by
  intro s link l _ hl hok hu
  let p := (feedLink s.cfg (roleOf s.cfg link.toNat) (ringContents s.cfg l) l).2
  have hhead : p.rbHead = l.rbHead := feedLink_rbHead _
  have hempty : ringCount (p.driven l.rbHead false (some .driver)) = 0 := hhead ▸ ringCount_driven_rbHead _ _
  obtain ⟨r, hfeed⟩ := feedAll_of_feedLink hl rfl
  exact ⟨_, _, _, _, p, exec_ldPoll_eq hl hu hok rfl, hfeed, links_setLink_self hl p r, rfl, hempty, rfl⟩

/-- Settles O39: each frame has the length its command has at that role (`IdleLink.delivers`), and the callbacks
are those of its command. -/
theorem framesAreDelivered : Obligations.FramesAreDelivered := by
  intro s link var value l hw hl hu hok hempty hwait hbuf hparses hfits delivered
  have h : IdleLink s link l := ⟨hw, hl, hu, hok, hempty, hwait, hbuf, hparses, hfits⟩
  refine ⟨?ack, ?write, ?reply, ?request⟩
  case ack =>
    rw [← callbacks_cmdAck var true value]
    exact h.delivers (value := some value) frameLen_cmdAck
  case write =>
    rw [← callbacks_cmdWrite hw var true value]
    exact h.delivers (value := some value) frameLen_cmdWrite
  case reply =>
    intro hrole
    have hcb := callbacks_cmdRead hw var true value
    rw [if_pos rfl] at hcb
    rw [← hcb]
    exact h.delivers (value := some value) (by rw [frameLen_cmdRead hw, hrole]; rfl)
  case request =>
    intro hrole
    have hcb := callbacks_cmdRead hw var false 0
    rw [if_neg nofun] at hcb
    rw [← hcb]
    exact h.delivers (value := none) (by rw [frameLen_cmdRead hw, hrole]; rfl)

/-- Settles O42: `exec_local`, by what each operation does with the link it finds. -/
theorem linksAreIndependent : Obligations.LinksAreIndependent :=
  fun _ _ s t hi ht => exec_local hi s t ht

/-- Settles O40: a sendable frame under each of the two results, and one that is not sendable. -/
theorem sendTransmitsOneFrame : Obligations.SendTransmitsOneFrame := by
  intro s link cmd var hasValue value l hl admitted bytes
  have hbytes : frameBytes s.cfg cmd var (valuePart hasValue value) = bytes := frameBytes_valuePart ..
  refine ⟨?ok, ?timeout, ?refused⟩
  case ok =>
    intro hadm hdraw
    rw [exec_ldSend_of_sendable hl (sendable_iff.2 hadm), sendFrame_eq, hbytes, hdraw]
    rfl
  case timeout =>
    intro hadm hdraw
    rw [exec_ldSend_of_sendable hl (sendable_iff.2 hadm), sendFrame_eq, hbytes, hdraw]
    rfl
  case refused =>
    intro hadm
    exact exec_ldSend_of_not_sendable hl (mt sendable_iff.1 hadm)

/-- Settles O41: both are the transmission their LD_SEND is (`exec_ldSend_of_sendable`). -/
theorem writeAndReadU16AreSends : Obligations.WriteAndReadU16AreSends := by
  intro s link var value l hl
  constructor
  · exact ⟨_, exec_ldWriteU16_eq hl var value, exec_ldSend_of_sendable hl (sendable_iff.2 (.inl ⟨.inl rfl, rfl⟩)),
      sendFrame_reports s.cfg.cmdWrite var (some value) s⟩
  · exact ⟨_, exec_ldReadU16_eq hl var, exec_ldSend_of_sendable hl (sendable_iff.2 (.inr rfl)),
      sendFrame_reports s.cfg.cmdRead var none s⟩

end Sys2Proof.Proofs
end

section
/-! FL_APPEND as one operation (rules R340 to R346): the state it leaves with every transaction OK, at each power loss
and at its first failed transaction, and every byte of the NVM in each. -/

namespace Sys2Proof.Machine

/-! ## The draws and the transactions -/

theorem uncut_of_cutAnswer_none {s : State} (h : s.draws.cutAnswer = none) : uncut s := .inl h

/-- An append that is not cut meets none of the three cuts where one could come. -/
theorem uncut.cuts {s : State} (h : uncut s) :
    (s.draws.cutAnswer = some .cut1 → s.flash.cursor % rps s.cfg ≠ 0) ∧ s.draws.cutAnswer ≠ some .cut2
      ∧ s.draws.cutAnswer ≠ some .cut3 := by
  rcases h with h | ⟨h, hk⟩ <;> simp_all

@[simp] theorem length_eraseOps (c : Config) (k : Nat) : (eraseOps c k).length = eraseCount c k := by
  unfold eraseOps eraseCount
  split <;> rfl

/-- The commit program is the last transaction of an append. -/
theorem appendOps_eq_commit (c : Config) (k : Nat) (body : List Byte) :
    appendOps c k body = eraseOps c k ++ [.program (slotAddr c k) body .ok]
      ++ [.program (commitAddr c k) [c.commitVal] .ok] :=
  appendOps_eq c k body

theorem take_appendOps_erase (c : Config) (k : Nat) (body : List Byte) :
    (appendOps c k body).take (eraseCount c k) = eraseOps c k := by
  rw [appendOps_eq, List.append_assoc, ← length_eraseOps, List.take_left]

theorem drop_appendOps_erase (c : Config) (k : Nat) (body : List Byte) :
    (appendOps c k body).drop (eraseCount c k)
      = [.program (slotAddr c k) body .ok, .program (commitAddr c k) [c.commitVal] .ok] := by
  rw [appendOps_eq_commit, List.append_assoc, ← length_eraseOps, List.drop_left]
  rfl

theorem take_appendOps_body (c : Config) (k : Nat) (body : List Byte) :
    (appendOps c k body).take (eraseCount c k + 1) = eraseOps c k ++ [.program (slotAddr c k) body .ok] := by
  rw [appendOps_eq, List.take_left' (by simp)]

theorem drop_appendOps_body (c : Config) (k : Nat) (body : List Byte) :
    (appendOps c k body).drop (eraseCount c k + 1) = [.program (commitAddr c k) [c.commitVal] .ok] := by
  rw [appendOps_eq_commit, List.drop_left' (by simp)]

theorem take_appendOps_commit (c : Config) (k : Nat) (body : List Byte) :
    (appendOps c k body).take (eraseCount c k + 2) = appendOps c k body :=
  List.take_of_length_le (by simp [appendOps_eq])

/-! ## The states of an append that is under way -/

section
variable (r : LogRequest) (now : Word) (s : State)

/-- The body of the record that an append of `r` programs. -/
def State.bodyFor : List Byte := bodyBytes s.cfg s.flash.nextSeq now r.code r.flags r.msg

/-- The NVM of `s` with the erase step and the body step of an append of `r` in effect. -/
def State.nvmWithBody : Memory :=
  bodyNvm s.cfg (erasedNvm s.cfg s.nvm s.flash.cursor) s.flash.cursor (s.bodyFor r now)

/-- The NVM of `s` with every step of an append of `r` in effect. -/
def State.nvmWithRecord : Memory := commitNvm s.cfg (s.nvmWithBody r now) s.flash.cursor

/-- The NVM of `s` after a body program that failed, `n` being the number of its free mask. -/
def State.nvmWithHalfBody (n : Nat) : Memory :=
  (erasedNvm s.cfg s.nvm s.flash.cursor).writeN (slotAddr s.cfg s.flash.cursor)
    (halfProgrammed (erasedNvm s.cfg s.nvm s.flash.cursor) (slotAddr s.cfg s.flash.cursor) (s.bodyFor r now) n)

/-- The NVM of `s` after a commit program that failed. -/
def State.nvmWithHalfCommit (n : Nat) : Memory :=
  (s.nvmWithBody r now).writeN (commitAddr s.cfg s.flash.cursor)
    (halfProgrammed (s.nvmWithBody r now) (commitAddr s.cfg s.flash.cursor) [s.cfg.commitVal] n)

/-- After the erase step, in phase `p`. -/
def atBody (p : FlPhase) : State :=
  { s with
    flash  := { s.flash with status := .ok, phase := p }
    nvm    := erasedNvm s.cfg s.nvm s.flash.cursor
    nvmOps := s.nvmOps ++ eraseOps s.cfg s.flash.cursor
    draws  := s.draws.afterCut.afterNvms (eraseCount s.cfg s.flash.cursor) }

/-- After the body step. -/
def atCommit : State :=
  { s with
    flash  := { s.flash with status := .ok, phase := .bodyDone }
    nvm    := s.nvmWithBody r now
    nvmOps := s.nvmOps ++ eraseOps s.cfg s.flash.cursor
      ++ [.program (slotAddr s.cfg s.flash.cursor) (s.bodyFor r now) .ok]
    draws  := s.draws.afterCut.afterNvms (eraseCount s.cfg s.flash.cursor + 1) }

/-- After the whole append (rule R345). -/
def appended : State :=
  { s with
    nvm    := s.nvmWithRecord r now
    flash  := ⟨true, (s.flash.cursor + 1) % capacity s.cfg, s.flash.nextSeq + 1, .ok, .idle⟩
    nvmOps := s.nvmOps ++ appendOps s.cfg s.flash.cursor (s.bodyFor r now)
    draws  := s.draws.afterCut.afterNvms (appendCount s.cfg s.flash.cursor)
    result := .status .ok }

end

section
variable (code flags : Half) (msg : List Byte) (now : Word) {s : State}

/-- An append whose erase, where one is due, returns OK comes to its body step. -/
theorem exec_flAppend_atBody (hi : s.flash.inited = true) (hk : s.flash.cursor < capacity s.cfg)
    (hc : s.draws.cutAnswer = some .cut1 → s.flash.cursor % rps s.cfg ≠ 0)
    (hd : nvmAllOk (eraseCount s.cfg s.flash.cursor) s.draws.afterCut) :
    ∃ p, exec (.flAppend code flags msg now) s
      = .next (appendBody s.draws.cutAnswer ⟨code, flags, msg⟩ now (atBody s p)) := by
  obtain ⟨p, h⟩ := appendErase_ok (r := ⟨code, flags, msg⟩) (now := now)
    (s := { s with draws := s.draws.afterCut, flash := { s.flash with status := .ok } }) hc hd
  rw [execFlAppend_eq code flags msg now hi hk, h]
  exact ⟨p, rfl⟩

/-- An append whose body program returns OK comes to its commit step. -/
theorem exec_flAppend_atCommit (hi : s.flash.inited = true) (hk : s.flash.cursor < capacity s.cfg)
    (hc : s.draws.cutAnswer = some .cut1 → s.flash.cursor % rps s.cfg ≠ 0) (hc' : s.draws.cutAnswer ≠ some .cut2)
    (hd : nvmAllOk (eraseCount s.cfg s.flash.cursor + 1) s.draws.afterCut) :
    exec (.flAppend code flags msg now) s
      = .next (appendCommit s.draws.cutAnswer (atCommit ⟨code, flags, msg⟩ now s)) := by
  obtain ⟨p, h⟩ := exec_flAppend_atBody code flags msg now hi hk hc (nvmAllOk_mono hd (Nat.le_succ _))
  rw [h, appendBody_ok hc' (hd _ (Nat.lt_succ_self _))]
  simp only [atBody, atCommit, Draws.afterNvms_succ]
  rfl

/-- An append with every transaction OK and no power loss (rules R340 to R345). -/
theorem exec_flAppend_ok (hi : s.flash.inited = true) (hk : s.flash.cursor < capacity s.cfg) (hu : uncut s)
    (hd : nvmAllOk (appendCount s.cfg s.flash.cursor) s.draws.afterCut) :
    exec (.flAppend code flags msg now) s = .next (appended ⟨code, flags, msg⟩ now s) := by
  obtain ⟨hcut1, hcut2, hcut3⟩ := hu.cuts
  rw [appendCount_eq] at hd
  rw [exec_flAppend_atCommit code flags msg now hi hk hcut1 hcut2 (nvmAllOk_mono hd (Nat.le_succ _)),
    appendCommit_ok hcut3 (hd _ (Nat.lt_succ_self _))]
  simp only [atCommit, appended, appendCount_eq, Draws.afterNvms_succ, appendOps_eq_commit, List.append_assoc, hi]
  rfl

end

/-! ## Every byte of the NVM (rules R84, R85) -/

section
variable {r : LogRequest} {now : Word} {s : State}

@[simp] theorem length_bodyFor : (s.bodyFor r now).length = 12 + s.cfg.msgLen := length_bodyBytes ..

theorem wf_nvmWithBody (hm : s.nvm.wf) : (s.nvmWithBody r now).wf := wf_bodyNvm (wf_erasedNvm hm _) _ _

theorem wf_nvmWithRecord (hm : s.nvm.wf) : (s.nvmWithRecord r now).wf := wf_commitNvm (wf_nvmWithBody hm) _

theorem read_nvmWithBody (hm : s.nvm.wf) (a : Nat) :
    (s.nvmWithBody r now).read a =
      if inBody s.cfg s.flash.cursor a then
        afterErase s s.flash.cursor a &&& (s.bodyFor r now).getD (a - slotAddr s.cfg s.flash.cursor) 0
      else afterErase s s.flash.cursor a := by
  rw [State.nvmWithBody, read_bodyNvm (wf_erasedNvm hm _) _ length_bodyFor, read_erasedNvm hm]

/-- The commit byte lies behind the body. -/
theorem not_inBody_commit (c : Config) (k : Nat) : ¬inBody c k (slotAddr c k + (12 + c.msgLen)) := by
  rintro ⟨-, h⟩
  exact Nat.lt_irrefl _ h

theorem read_nvmWithRecord (hm : s.nvm.wf) (a : Nat) :
    (s.nvmWithRecord r now).read a =
      if inBody s.cfg s.flash.cursor a then
        afterErase s s.flash.cursor a &&& (s.bodyFor r now).getD (a - slotAddr s.cfg s.flash.cursor) 0
      else if a = slotAddr s.cfg s.flash.cursor + (12 + s.cfg.msgLen) then
        afterErase s s.flash.cursor a &&& s.cfg.commitVal
      else afterErase s s.flash.cursor a := by
  rw [State.nvmWithRecord, read_commitNvm (wf_nvmWithBody hm), read_nvmWithBody hm]
  by_cases hcommit : a = slotAddr s.cfg s.flash.cursor + (12 + s.cfg.msgLen)
  · have hbody : ¬inBody s.cfg s.flash.cursor a := hcommit ▸ not_inBody_commit _ _
    rw [if_pos hcommit, if_neg hbody, if_neg hbody, if_pos hcommit]
  · rw [if_neg hcommit, if_neg hcommit]

/-- A failed body program: each bit of the body unchanged or programmed, every other byte as the erase step left it. -/
theorem read_nvmWithHalfBody (hm : s.nvm.wf) (n a : Nat) :
    (inBody s.cfg s.flash.cursor a → halfDone (afterErase s s.flash.cursor a)
      ((s.bodyFor r now).getD (a - slotAddr s.cfg s.flash.cursor) 0) ((s.nvmWithHalfBody r now n).read a))
    ∧ (¬inBody s.cfg s.flash.cursor a → (s.nvmWithHalfBody r now n).read a = afterErase s s.flash.cursor a) := by
  have h := read_halfProgrammed (wf_erasedNvm (c := s.cfg) hm s.flash.cursor) (slotAddr s.cfg s.flash.cursor)
    (s.bodyFor r now) n a
  rwa [length_bodyFor, read_erasedNvm hm] at h

/-- A failed commit program: each bit of the commit byte unchanged or programmed, every other byte as the body step left
it. -/
theorem read_nvmWithHalfCommit (hm : s.nvm.wf) (n a : Nat) :
    (a = slotAddr s.cfg s.flash.cursor + (12 + s.cfg.msgLen) →
      halfDone (afterErase s s.flash.cursor a) s.cfg.commitVal ((s.nvmWithHalfCommit r now n).read a))
    ∧ (a ≠ slotAddr s.cfg s.flash.cursor + (12 + s.cfg.msgLen) →
      (s.nvmWithHalfCommit r now n).read a = (s.nvmWithBody r now).read a) := by
  have h := read_halfProgrammed (wf_nvmWithBody (r := r) (now := now) hm) (commitAddr s.cfg s.flash.cursor)
    [s.cfg.commitVal] n a
  constructor
  · rintro rfl
    have hhalf := h.1 ⟨Nat.le_refl _, Nat.lt_succ_self _⟩
    rw [read_nvmWithBody hm, if_neg (not_inBody_commit _ _)] at hhalf
    simpa [State.nvmWithHalfCommit, commitAddr, bodyLen] using hhalf
  · intro hne
    refine h.2 ?_
    simp only [commitAddr, bodyLen, List.length_singleton]
    omega

end

/-! ## Power loss at a cut (rule R346) -/

section
variable (code flags : Half) (msg : List Byte) (now : Word) {s : State}

/-- Cut 1 comes after the erase of a first slot. -/
theorem exec_flAppend_cut1 (hi : s.flash.inited = true) (hk : s.flash.cursor < capacity s.cfg)
    (hc : s.draws.cutAnswer = some .cut1) (hfirst : s.flash.cursor % rps s.cfg = 0)
    (hd : nvmAllOk 1 s.draws.afterCut) :
    ∃ p, exec (.flAppend code flags msg now) s = .next (volatileReset (atBody s p)) := by
  have h := appendErase_cut (r := ⟨code, flags, msg⟩) (now := now)
    (s := { s with draws := s.draws.afterCut, flash := { s.flash with status := .ok } }) hfirst (hd 0 Nat.one_pos)
  refine ⟨s.flash.phase, ?_⟩
  rw [execFlAppend_eq code flags msg now hi hk, hc, h]
  simp only [atBody, eraseCount, if_pos hfirst]
  rfl

/-- Cut 2 comes after the body program. -/
theorem exec_flAppend_cut2 (hi : s.flash.inited = true) (hk : s.flash.cursor < capacity s.cfg)
    (hc : s.draws.cutAnswer = some .cut2) (hd : nvmAllOk (eraseCount s.cfg s.flash.cursor + 1) s.draws.afterCut) :
    exec (.flAppend code flags msg now) s = .next (volatileReset (atCommit ⟨code, flags, msg⟩ now s)) := by
  obtain ⟨p, h⟩ := exec_flAppend_atBody code flags msg now hi hk
    (by simp [hc]) (nvmAllOk_mono hd (Nat.le_succ _))
  rw [h, hc, appendBody_cut (hd _ (Nat.lt_succ_self _))]
  simp only [atBody, atCommit, Draws.afterNvms_succ]
  rfl

/-- Cut 3 comes after the commit program: the record is written, and the volatile state is lost. -/
theorem exec_flAppend_cut3 (hi : s.flash.inited = true) (hk : s.flash.cursor < capacity s.cfg)
    (hc : s.draws.cutAnswer = some .cut3) (hd : nvmAllOk (eraseCount s.cfg s.flash.cursor + 2) s.draws.afterCut) :
    exec (.flAppend code flags msg now) s = .next (volatileReset (appended ⟨code, flags, msg⟩ now s)) := by
  rw [exec_flAppend_atCommit code flags msg now hi hk (by simp [hc]) (by simp [hc])
    (nvmAllOk_mono hd (Nat.le_succ _)), hc, appendCommit_cut (hd _ (Nat.lt_succ_self _))]
  simp only [atCommit, appended, appendCount_eq, Draws.afterNvms_succ, appendOps_eq_commit, List.append_assoc]
  rfl

end

/-! ## The first transaction that fails (rules R344, R334) -/

section
variable (code flags : Half) (msg : List Byte) (now : Word) {s : State}

/-- The state in which an append whose transaction has failed ends: cursor and sequence number as they were. -/
def appendFailed (s : State) (kind : IoKind) (m : Memory) (ops : List NvmOp) (d : Draws) : State :=
  { s with
    nvm    := m
    flash  := ⟨true, s.flash.cursor, s.flash.nextSeq, .fail, .idle⟩
    events := s.events ++ [.ioError kind]
    nvmOps := s.nvmOps ++ ops
    draws  := d
    result := .status .fail }

/-- `Fail(kind)` in an append under way, after transactions `ops`. -/
theorem flDone_flFail_eq {u : State} (hi : s.flash.inited = true) (kind : IoKind) {p : FlPhase} {m : Memory}
    {ops : List NvmOp} {d : Draws}
    (hu : u = { s with
      flash := { s.flash with status := .ok, phase := p }, nvm := m, nvmOps := s.nvmOps ++ ops, draws := d }) :
    flDone (flFail kind u) = appendFailed s kind m ops d := by
  subst hu
  simp only [appendFailed, ← hi]
  rfl

/-- The erase fails: free bytes in its sector. -/
theorem exec_flAppend_eraseFails (hi : s.flash.inited = true) (hk : s.flash.cursor < capacity s.cfg)
    (hfirst : s.flash.cursor % rps s.cfg = 0) (hd : s.draws.afterCut.nvmAnswer = .fail) :
    ∃ bs d, bs.length = s.cfg.sectorSize ∧ exec (.flAppend code flags msg now) s = .next (appendFailed s .nvmErase
      (s.nvm.writeN (sectorAddr s.cfg (s.flash.cursor / rps s.cfg)) bs)
      [.erase (s.flash.cursor / rps s.cfg) .fail] d) := by
  obtain ⟨bs, d, hl, h⟩ := appendErase_fail (cut := s.draws.cutAnswer) (r := ⟨code, flags, msg⟩) (now := now)
    (s := { s with draws := s.draws.afterCut, flash := { s.flash with status := .ok } }) hfirst hd
  refine ⟨bs, d, hl, ?_⟩
  rw [execFlAppend_eq code flags msg now hi hk, h]
  exact congrArg _ (flDone_flFail_eq hi .nvmErase (p := s.flash.phase) rfl)

/-- The body program fails: its bytes are partly programmed. -/
theorem exec_flAppend_bodyFails (hi : s.flash.inited = true) (hk : s.flash.cursor < capacity s.cfg) (hu : uncut s)
    (hd : nvmAllOk (eraseCount s.cfg s.flash.cursor) s.draws.afterCut)
    (hf : (s.draws.afterCut.afterNvms (eraseCount s.cfg s.flash.cursor)).nvmAnswer = .fail) :
    ∃ n d, exec (.flAppend code flags msg now) s = .next (appendFailed s .nvmProgram
      (s.nvmWithHalfBody ⟨code, flags, msg⟩ now n)
      (eraseOps s.cfg s.flash.cursor ++
        [.program (slotAddr s.cfg s.flash.cursor) (s.bodyFor ⟨code, flags, msg⟩ now) .fail]) d) := by
  obtain ⟨p, h⟩ := exec_flAppend_atBody code flags msg now hi hk hu.cuts.1 hd
  obtain ⟨n, d, hbody⟩ := appendBody_fail (cut := s.draws.cutAnswer) (r := ⟨code, flags, msg⟩) (now := now)
    (s := atBody s p) hf
  refine ⟨n, d, ?_⟩
  rw [h, hbody]
  refine congrArg _ (flDone_flFail_eq hi .nvmProgram (p := p) ?_)
  simp only [atBody, List.append_assoc]
  rfl

/-- The commit program fails: its byte is partly programmed. -/
theorem exec_flAppend_commitFails (hi : s.flash.inited = true) (hk : s.flash.cursor < capacity s.cfg) (hu : uncut s)
    (hd : nvmAllOk (eraseCount s.cfg s.flash.cursor + 1) s.draws.afterCut)
    (hf : (s.draws.afterCut.afterNvms (eraseCount s.cfg s.flash.cursor + 1)).nvmAnswer = .fail) :
    ∃ n d, exec (.flAppend code flags msg now) s = .next (appendFailed s .nvmProgram
      (s.nvmWithHalfCommit ⟨code, flags, msg⟩ now n)
      (eraseOps s.cfg s.flash.cursor ++
        [.program (slotAddr s.cfg s.flash.cursor) (s.bodyFor ⟨code, flags, msg⟩ now) .ok]
        ++ [.program (commitAddr s.cfg s.flash.cursor) [s.cfg.commitVal] .fail]) d) := by
  obtain ⟨hcut1, hcut2, -⟩ := hu.cuts
  obtain ⟨n, d, hcommit⟩ := appendCommit_fail (cut := s.draws.cutAnswer)
    (s := atCommit ⟨code, flags, msg⟩ now s) hf
  refine ⟨n, d, ?_⟩
  rw [exec_flAppend_atCommit code flags msg now hi hk hcut1 hcut2 hd, hcommit]
  refine congrArg _ (flDone_flFail_eq hi .nvmProgram (p := .bodyDone) ?_)
  simp only [atCommit, List.append_assoc]
  rfl

end

end Sys2Proof.Machine

namespace Sys2Proof.Proofs

open Sys2Proof Sys2Proof.Machine

/-- Settles O44: the state after the three steps, and every byte of its NVM. -/
theorem appendWritesOneRecord : Obligations.AppendWritesOneRecord := by
  intro s code flags msg now hm hi hk hu c k body hd
  exact ⟨s.nvmWithRecord ⟨code, flags, msg⟩ now, exec_flAppend_ok code flags msg now hi hk hu hd,
    wf_nvmWithRecord hm, read_nvmWithRecord hm⟩

/-- Settles O46: at each cut the volatile state is that of reset, over the NVM the steps before the cut leave. -/
theorem powerLossCutsAppend : Obligations.PowerLossCutsAppend := by
  intro s code flags msg now cut hm hi hk hcut c k body n hfirst hd
  have htable := volatileReset_table
  cases cut with
  | cut1 =>
    have hk0 : s.flash.cursor % rps s.cfg = 0 := hfirst rfl
    obtain ⟨p, h⟩ := exec_flAppend_cut1 code flags msg now hi hk hcut hk0 hd
    have herase : eraseCount s.cfg s.flash.cursor = 1 := if_pos hk0
    refine ⟨_, h, htable _, rfl, rfl, rfl, ?_, wf_erasedNvm hm _, fun a => ?_⟩
    · show s.nvmOps ++ eraseOps s.cfg s.flash.cursor = _
      rw [← take_appendOps_erase s.cfg s.flash.cursor body, herase]
    · rw [if_neg (by simp), if_neg (by simp)]
      exact read_erasedNvm hm _ a
  | cut2 =>
    have hn : n = eraseCount s.cfg s.flash.cursor + 1 := by simp only [n, c, k, appendCount_eq]; omega
    rw [hn] at hd ⊢
    refine ⟨_, exec_flAppend_cut2 code flags msg now hi hk hcut hd, htable _, rfl, rfl, rfl, ?_,
      wf_nvmWithBody hm, fun a => ?_⟩
    · rw [take_appendOps_body, ← List.append_assoc]
      rfl
    · refine (read_nvmWithBody hm a).trans ?_
      simp only [ne_eq, reduceCtorEq, not_false_eq_true, and_true, and_false, if_false]
      rfl
  | cut3 =>
    have hn : n = eraseCount s.cfg s.flash.cursor + 2 := appendCount_eq _ _
    rw [hn] at hd ⊢
    refine ⟨_, exec_flAppend_cut3 code flags msg now hi hk hcut hd, htable _, rfl, rfl, rfl, ?_,
      wf_nvmWithRecord hm, fun a => ?_⟩
    · rw [take_appendOps_commit]
      rfl
    · refine (read_nvmWithRecord hm a).trans ?_
      simp only [ne_eq, reduceCtorEq, not_false_eq_true, and_true]
      rfl

/-- Settles O45: the first failed transaction is the erase, the body program or the commit program; the bytes are those
of the steps before it and of `halfProgrammed`. -/
theorem appendFailureKeepsCursor : Obligations.AppendFailureKeepsCursor := by
  intro s code flags msg now j hm hi hk hu c k body n kind hj hd hf
  have hn : n = eraseCount s.cfg s.flash.cursor + 2 := appendCount_eq _ _
  have hone : eraseCount s.cfg s.flash.cursor ≤ 1 := by unfold eraseCount; split <;> omega
  obtain hjErase | hjBody | hjCommit : j < eraseCount s.cfg s.flash.cursor ∨ j = eraseCount s.cfg s.flash.cursor
      ∨ j = eraseCount s.cfg s.flash.cursor + 1 := by omega
  · obtain ⟨rfl, herase⟩ : j = 0 ∧ eraseCount s.cfg s.flash.cursor = 1 := by omega
    have hfirst : s.flash.cursor % rps s.cfg = 0 := by
      by_contra hne
      simp [eraseCount, hne] at herase
    obtain ⟨bs, d, hlen, h⟩ := exec_flAppend_eraseFails code flags msg now hi hk
      hfirst hf
    have hkind : n = 3 ∧ 0 = 0 := by omega
    refine ⟨_, h, ?_, Memory.wf_writeN hm _ _, fun _ a ha => ?_, fun hne => absurd hkind hne⟩
    · have hops : appendOps c k body = .erase (k / rps c) .ok :: (appendOps c k body).drop 1 := by
        simp [appendOps, c, k, hfirst]
      rw [hops]
      simp [kind, hkind, appendFailed, NvmOp.failed, c, k]
    · have hout : ¬(sectorAddr s.cfg (k / rps c) ≤ a ∧ a < sectorAddr s.cfg (k / rps c) + bs.length) := by
        simpa [inSector, sectorAddr, hlen, Nat.add_mul, Nat.add_assoc] using ha
      exact (Memory.read_writeN hm _ _ _).trans (if_neg hout)
  · subst hjBody
    obtain ⟨m, d, h⟩ := exec_flAppend_bodyFails code flags msg now hi hk hu hd hf
    have hkind : ¬(n = 3 ∧ eraseCount s.cfg s.flash.cursor = 0) := by omega
    refine ⟨_, h, ?_, Memory.wf_writeN (wf_erasedNvm hm _) _ _, fun hc => absurd hc hkind, fun _ a => ?_⟩
    · rw [take_appendOps_erase, drop_appendOps_erase]
      simp only [kind, if_neg hkind]
      rfl
    · obtain ⟨hbody, hother⟩ := read_nvmWithHalfBody (r := ⟨code, flags, msg⟩) (now := now) hm m a
      refine ⟨fun hin _ => hbody hin, fun _ hne => ?_, fun hcommit _ => ?_, fun _ hne => ?_,
        fun hout _ => hother hout⟩
      · omega
      · exact hother fun hin => not_inBody_commit c k (hcommit ▸ hin)
      · omega
  · subst hjCommit
    obtain ⟨m, d, h⟩ := exec_flAppend_commitFails code flags msg now hi hk hu hd hf
    have hkind : ¬(n = 3 ∧ eraseCount s.cfg s.flash.cursor + 1 = 0) := by omega
    refine ⟨_, h, ?_, Memory.wf_writeN (wf_nvmWithBody hm) _ _, fun hc => absurd hc hkind, fun _ a => ?_⟩
    · rw [take_appendOps_body, drop_appendOps_body]
      simp only [kind, if_neg hkind]
      rfl
    · obtain ⟨hcommit, hother⟩ := read_nvmWithHalfCommit (r := ⟨code, flags, msg⟩) (now := now) hm m a
      have hread := read_nvmWithBody (r := ⟨code, flags, msg⟩) (now := now) hm a
      refine ⟨fun _ hne => ?_, fun hin _ => ?_, fun _ hne => ?_, fun heq _ => hcommit heq, fun hout hne => ?_⟩
      · omega
      · exact ((hother fun heq => not_inBody_commit c k (heq ▸ hin)).trans hread).trans (if_pos hin)
      · omega
      · exact ((hother hne).trans hread).trans (if_neg hout)

end Sys2Proof.Proofs
end

section
/-! FL_INIT, the walks of the log as operations, and LOG_WRITE (rules R335 to R337, R350 to R359). -/

namespace Sys2Proof.Machine

/-! ## What a walk leaves -/

section
variable {s t : State} {n : Nat}

theorem ReadsOnly.slot (h : ReadsOnly s t n) (k : Nat) : t.slot k = s.slot k := by
  rw [State.slot, h.cfg, h.nvm, State.slot]

theorem ReadsOnly.record (h : ReadsOnly s t n) (k : Nat) : t.record k = s.record k := by
  rw [State.record, h.cfg, h.nvm, State.record]

theorem ReadsOnly.flash (h : ReadsOnly s t n) : t.flash = s.flash := by rw [h.state]

theorem ReadsOnly.events (h : ReadsOnly s t n) : t.events = s.events := by rw [h.state]

/-- The state in which a walk ends that began with FL status OK, whether or not its last read failed (rules R334,
R358). -/
theorem ReadsOnly.ended {u : State} (h : ReadsOnly (flBegin s) u n) (st : Status) :
    ∃ ops, (if st = .ok then u else flFail .nvmRead u) = { s with
        flash  := { s.flash with status := st, phase := if st = .ok then s.flash.phase else .idle }
        events := s.events ++ (if st = .ok then [] else [.ioError .nvmRead])
        nvmOps := s.nvmOps ++ ops
        draws  := s.draws.afterNvms n }
      ∧ (∀ op ∈ ops, op.isRead = true) ∧ ops.length = n := by
  obtain ⟨ops, hops, hread, hlen⟩ := h.ops
  refine ⟨ops, ?_, hread, hlen⟩
  rw [h.state, hops]
  cases st with
  | ok => simp [flBegin, State.setFlash]
  | fail => simp [flBegin, flFail, raiseCondition, State.setFlash, State.emit, State.setEvents]

end

/-! ## FL_INIT (rules R335 to R337) -/

/-- The slots walked before slot `k` are those below it. -/
theorem range_split {n k : Nat} {a b : List Nat} (h : List.range n = a ++ k :: b) : k < n ∧ ∀ j < k, j ∈ a := by
  have hlen : n = a.length + (b.length + 1) := by simpa using congrArg List.length h
  have hget : ∀ j < n, (a ++ k :: b)[j]? = some j := fun j hj => by rw [← h, List.getElem?_range hj]
  have hk : k = a.length := by simpa using hget a.length (by omega)
  refine ⟨by omega, fun j hj => ?_⟩
  have hj' := hget j (by omega)
  rw [List.getElem?_append_left (by omega)] at hj'
  exact List.mem_of_getElem? hj'

/-- What step 1 finds is the cursor to recover (rule R336). -/
theorem isRecoveredCursor_findEmpty {s t : State} {e : Option Nat}
    (h : findEmpty (List.range (capacity s.cfg)) s = (some e, t)) : isRecoveredCursor s (e.getD 0) := by
  obtain ⟨n, -, -, -, hcase⟩ := findEmpty_spec (List.range (capacity s.cfg)) s
  rw [h] at hcase
  cases e with
  | none => exact .inr ⟨rfl, fun k hk => hcase k (List.mem_range.2 hk)⟩
  | some k =>
    obtain ⟨hempty, a, b, hsplit, hbefore⟩ := hcase
    obtain ⟨hk, hmem⟩ := range_split hsplit
    exact .inl ⟨hk, hempty, fun j hj => hbefore j (hmem j hj)⟩

/-- What step 2 finds is the sequence number to recover (rule R337). -/
theorem isRecoveredSeq_findNewest {s t : State} {k : Nat} {q : Option Word} (hc : s.cfg.commitVal ≠ s.cfg.erased)
    (h : findNewest (slotsBefore s.cfg k (capacity s.cfg)) s = (some q, t)) : isRecoveredSeq s k (seqAfter q) := by
  obtain ⟨n, -, -, -, hcase⟩ := findNewest_spec (slotsBefore s.cfg k (capacity s.cfg)) s hc
  rw [h] at hcase
  cases q with
  | none =>
    refine .inr ⟨rfl, fun d hd hd' => hcase _ ?_⟩
    exact List.mem_map.2 ⟨d - 1, List.mem_range.2 (by omega), by rw [Nat.sub_add_cancel hd]⟩
  | some q =>
    obtain ⟨a, j, b, hsplit, hvalid, hseq, hbefore⟩ := hcase
    obtain ⟨hj, hle, hmem⟩ := slotsBefore_split hsplit
    rw [hj] at hvalid hseq
    exact .inl ⟨a.length + 1, by omega, hle, hvalid, fun e he he' => hbefore _ (hmem e he he'), by rw [seqAfter, hseq]⟩

theorem ReadsOnly.recoveredSeq {s t : State} {n k : Nat} {q : Word} (h : ReadsOnly s t n)
    (hq : isRecoveredSeq t k q) : isRecoveredSeq s k q := by
  simpa only [isRecoveredSeq, h.slot, h.record, h.cfg] using hq

/-- FL_INIT's registers once both steps are through (rule R335). -/
def withRecovered (s : State) (k : Nat) (q : Word) : State :=
  s.setFlash { s.flash with cursor := k, nextSeq := q, phase := .idle, inited := true }

/-- All that FL_INIT can do: at most two reads for each slot, after which it has recovered both registers or, where a
read failed, neither (rules R335 to R337, R358). -/
theorem initLog_cases {s : State} (hw : s.cfg.wf = true) :
    ∃ n u, n ≤ 2 * capacity s.cfg ∧ ReadsOnly (flBegin s) u n
      ∧ ((∃ k q, initLog s = withRecovered u k q ∧ isRecoveredCursor s k ∧ isRecoveredSeq s k q)
        ∨ (initLog s = flFail .nvmRead u ∧ ¬nvmAllOk (2 * capacity s.cfg) s.draws)) := by
  obtain ⟨m, hm, hreads, hsome, -⟩ := findEmpty_spec (List.range (capacity s.cfg)) (flBegin s)
  rw [List.length_range] at hm hsome
  unfold initLog
  split
  next t he =>
    rw [he] at hreads hsome
    refine ⟨m, t, by omega, hreads, .inr ⟨rfl, fun hall => hsome ?_ rfl⟩⟩
    exact nvmAllOk_mono hall (by omega)
  next e t he =>
    have hcursor : isRecoveredCursor s (e.getD 0) :=
      isRecoveredCursor_findEmpty (s := flBegin s) he
    rw [he] at hreads
    have hcfg : t.cfg = s.cfg := hreads.cfg
    have hc : t.cfg.commitVal ≠ t.cfg.erased := by rw [hcfg]; exact Config.wf_commit hw
    obtain ⟨m', hm', hreads', hsome', -⟩ := findNewest_spec (slotsBefore t.cfg (e.getD 0) (capacity t.cfg)) t hc
    have hlen : (slotsBefore t.cfg (e.getD 0) (capacity t.cfg)).length = capacity s.cfg := by simp [slotsBefore, hcfg]
    rw [hlen] at hm' hsome'
    split
    next u hn =>
      rw [hn] at hreads' hsome'
      refine ⟨m + m', u, by omega, hreads.trans hreads', .inr ⟨rfl, fun hall => hsome' ?_ rfl⟩⟩
      rw [hreads.draws]
      exact nvmAllOk_drop (nvmAllOk_mono hall (by omega))
    next q u hn =>
      have hseq : isRecoveredSeq s (e.getD 0) (seqAfter q) := hreads.recoveredSeq (isRecoveredSeq_findNewest hc hn)
      rw [hn] at hreads'
      exact ⟨m + m', u, by omega, hreads.trans hreads', .inl ⟨e.getD 0, seqAfter q, rfl, hcursor, hseq⟩⟩

theorem isRecoveredCursor_unique {s : State} {k k' : Nat} (h : isRecoveredCursor s k) (h' : isRecoveredCursor s k') :
    k = k' := by
  rcases h with ⟨hk, hempty, hbefore⟩ | ⟨hk, hnone⟩ <;> rcases h' with ⟨hk', hempty', hbefore'⟩ | ⟨hk', hnone'⟩
  · rcases Nat.lt_trichotomy k k' with hlt | heq | hlt
    · exact absurd hempty (hbefore' k hlt)
    · exact heq
    · exact absurd hempty' (hbefore k' hlt)
  · exact absurd hempty (hnone' k hk)
  · exact absurd hempty' (hnone k' hk')
  · rw [hk, hk']

theorem isRecoveredSeq_unique {s : State} {k : Nat} {q q' : Word} (h : isRecoveredSeq s k q)
    (h' : isRecoveredSeq s k q') : q = q' := by
  rcases h with ⟨d, hd, hle, hvalid, hbefore, hq⟩ | ⟨hq, hnone⟩ <;>
    rcases h' with ⟨d', hd', hle', hvalid', hbefore', hq'⟩ | ⟨hq', hnone'⟩
  · rcases Nat.lt_trichotomy d d' with hlt | rfl | hlt
    · exact absurd hvalid (hbefore' d hd hlt)
    · rw [hq, hq']
    · exact absurd hvalid' (hbefore d' hd' hlt)
  · exact absurd hvalid (hnone' d hd hle)
  · exact absurd hvalid' (hnone d' hd' hle')
  · rw [hq, hq']

/-- The state after an FL_INIT that has recovered `k` and `q` by the `n` reads `ops`. -/
def initialised (s : State) (k : Nat) (q : Word) (n : Nat) (ops : List NvmOp) : State :=
  { s with
    flash  := ⟨true, k, q, .ok, .idle⟩
    nvmOps := s.nvmOps ++ ops
    draws  := s.draws.afterNvms n
    result := .status .ok }

/-- FL_INIT where every read returns OK: the registers are what there is to recover. -/
theorem exec_flInit_ok {s : State} {k : Nat} {q : Word} (hw : s.cfg.wf = true)
    (hd : nvmAllOk (2 * capacity s.cfg) s.draws) (hk : isRecoveredCursor s k) (hq : isRecoveredSeq s k q) :
    ∃ n ops, n ≤ 2 * capacity s.cfg ∧ (∀ op ∈ ops, op.isRead = true)
      ∧ exec .flInit s = .next (initialised s k q n ops) := by
  obtain ⟨n, u, hn, hreads, ⟨k', q', hinit, hk', hq'⟩ | ⟨-, hfail⟩⟩ := initLog_cases hw
  · obtain rfl := isRecoveredCursor_unique hk hk'
    obtain rfl := isRecoveredSeq_unique hq hq'
    obtain ⟨ops, hops, hread, -⟩ := hreads.ops
    refine ⟨n, ops, hn, hread, ?_⟩
    show Host.Outcome.next (flDone (initLog s)) = _
    rw [hinit, hreads.state, hops]
    rfl
  · exact absurd hd hfail

/-! ## The operations before FL_INIT, and LOG_WRITE (rules R350, R359) -/

section
variable {s : State}

/-- The walk of an FL_READ_LAST_N that may return up to `lim` records. -/
def State.readLast (s : State) (lim : Nat) : (Status × List LogRecord) × State :=
  readBack (slotsBefore s.cfg s.flash.cursor lim) (flBegin s)

/-- The walk of FL_COUNT_VALID. -/
def State.countSlots (s : State) : Option Nat × State := countValid (List.range (capacity s.cfg)) 0 (flBegin s)

theorem exec_flReadLastN_eq {n maxOut : Half} {lim : Nat} (hi : s.flash.inited = true)
    (hlim : lim = min (min n.toNat (capacity s.cfg)) maxOut.toNat) :
    exec (.flReadLastN n maxOut) s
      = .next ((s.readLast lim).2.setResult (.records (s.readLast lim).1.1 (s.readLast lim).1.2)) := by
  simp [exec, execFlReadLastN, hi, hlim, State.readLast]

theorem exec_flCountValid_eq (hi : s.flash.inited = true) :
    exec .flCountValid s
      = .next (s.countSlots.2.setResult (.validCount s.countSlots.2.flash.status s.countSlots.1)) := by
  simp [exec, execFlCountValid, hi, State.countSlots]

theorem getElem?_slotsBefore {c : Config} {k n i : Nat} (h : i < n) :
    (slotsBefore c k n)[i]? = some (slotBack c k (i + 1)) := by
  simp [slotsBefore, h]

theorem exec_logWrite_head {r : LogRequest} {rest : List LogRequest} (now : Word) (hi : s.flash.inited = true)
    (hq : s.logq = r :: rest) (hk : s.flash.cursor < capacity s.cfg) :
    exec (.logWrite now) s = .next (appendRecord r now (s.setLogq rest)) := by
  simp [exec, execLogWrite, hi, hq, hk]

theorem exec_logWrite_empty (now : Word) (hi : s.flash.inited = true) (hq : s.logq = []) :
    exec (.logWrite now) s = .refused .logQueueEmpty := by
  simp [exec, execLogWrite, hi, hq]

theorem exec_flAppend_eq (r : LogRequest) (now : Word) (hi : s.flash.inited = true)
    (hk : s.flash.cursor < capacity s.cfg) :
    exec (.flAppend r.code r.flags r.msg now) s = .next (appendRecord r now s) := by
  simp [exec, execFlAppend, hi, hk]

end

end Sys2Proof.Machine

namespace Sys2Proof.Proofs

open Sys2Proof Sys2Proof.Machine

/-- Settles O43: both ends of FL_INIT (`initLog_cases`); after a failed read the registers are kept. -/
theorem initRecoversCursorAndSequence : Obligations.InitRecoversCursorAndSequence := by
  intro s hw
  obtain ⟨n, u, hn, hreads, hcase⟩ := initLog_cases hw
  obtain ⟨ops, hops, hread, hlen⟩ := hreads.ops
  have hexec : exec .flInit s = .next (flDone (initLog s)) := rfl
  rw [hreads.state, hops] at hcase
  rcases hcase with ⟨k, q, hinit, hk, hq⟩ | ⟨hinit, hfail⟩ <;> rw [hinit] at hexec
  · refine ⟨_, ops, hexec, rfl, hread, by omega, rfl, rfl, rfl, fun _ => ⟨rfl, rfl, hk, hq⟩, ?_, fun _ => rfl⟩
    exact nofun
  · refine ⟨_, ops, hexec, rfl, hread, by omega, rfl, rfl, rfl, ?_, fun _ => ⟨rfl, rfl, rfl, rfl⟩, ?_⟩
    · exact nofun
    · exact fun hall => absurd hall hfail

/-- Settles O51: the walk over the slots before the cursor (`readBack_spec`). -/
theorem readLastNWalksBackward : Obligations.ReadLastNWalksBackward := by
  intro s n maxOut hw hi lim
  obtain ⟨m, u, hm, hreads, hend, hle, hrecords, hstop, hok⟩ :=
    readBack_spec (slotsBefore s.cfg s.flash.cursor lim) (flBegin s) (Config.wf_commit hw)
  have hlen : (slotsBefore s.cfg s.flash.cursor lim).length = lim := by simp [slotsBefore]
  rw [hlen] at hm hle hok
  have hexec := exec_flReadLastN_eq (n := n) (maxOut := maxOut) (lim := lim) hi rfl
  obtain ⟨ops, hended, hread, hcount⟩ := hreads.ended (s.readLast lim).1.1
  have hstate : (s.readLast lim).2 = _ := hend.trans hended
  refine ⟨_, _, _, ops, hexec, rfl, hle, ?_, ?_, ?_, hread, by omega, hok⟩
  · intro i hlt
    obtain ⟨k, hk, hvalid, hrecord⟩ := hrecords i hlt
    rw [getElem?_slotsBefore (Nat.lt_of_lt_of_le hlt hle)] at hk
    cases hk
    exact ⟨hvalid, hrecord⟩
  · exact fun hst hlt => hstop hst _ (getElem?_slotsBefore hlt)
  · rw [hstate]
    rfl

/-- Settles O52: the walk over the whole region (`countValid_spec`), to its end or to a failed read. -/
theorem countValidCountsEverySlot : Obligations.CountValidCountsEverySlot := by
  intro s hw hi
  obtain ⟨m, u, hm, hreads, hcase⟩ :=
    countValid_spec (List.range (capacity s.cfg)) 0 (flBegin s) (Config.wf_commit hw)
  have hexec := exec_flCountValid_eq hi
  rw [List.length_range] at hcase
  rcases hcase with ⟨hcount, hend, hlen⟩ | ⟨hcount, hend, hfail⟩
  · obtain ⟨ops, hended, hread, hops⟩ := hreads.ended .ok
    have hstate : s.countSlots.2 = _ := hend.trans hended
    have hsome : s.countSlots.1 = _ := hcount
    rw [hstate, hsome, Nat.zero_add] at hexec
    exact ⟨_, .ok, _, ops, hexec, rfl, fun _ => rfl, nofun, rfl, hread, fun _ => hops.trans hlen, fun _ => rfl⟩
  · obtain ⟨ops, hended, hread, -⟩ := hreads.ended .fail
    have hstate : s.countSlots.2 = _ := hend.trans hended
    have hnone : s.countSlots.1 = none := hcount
    rw [hstate, hnone] at hexec
    exact ⟨_, .fail, _, ops, hexec, rfl, nofun, fun _ => rfl, rfl, hread, nofun, fun hall => absurd hall hfail⟩

/-- Settles O50: both sides run the append of the head at the state without it. -/
theorem logWriteAppendsQueueHead : Obligations.LogWriteAppendsQueueHead := by
  intro s now hi
  constructor
  · intro r rest hq hk
    exact ⟨_, exec_logWrite_head now hi hq hk, exec_flAppend_eq (s := s.setLogq rest) r now hi hk⟩
  · exact exec_logWrite_empty now hi

/-- Settles O53: each of the four refusals. -/
theorem logIsRefusedBeforeInit : Obligations.LogIsRefusedBeforeInit := by
  intro s code flags n maxOut msg now hi
  refine ⟨?append, ?write, ?read, ?count⟩
  case append => simp [exec, execFlAppend, hi]
  case write => simp [exec, execLogWrite, hi]
  case read => simp [exec, execFlReadLastN, hi]
  case count => simp [exec, execFlCountValid, hi]

end Sys2Proof.Proofs
end

section
/-! What a whole append writes, read back: the round trip of a record (rule R360) and an append repeated after a power
loss between body and commit (rules R347, R446). -/

namespace Sys2Proof.Machine

/-! ## A record as bytes (rules R131, R332) -/

theorem unpack_bodyBytes (c : Config) (seq ms : Word) (code flags : Half) (msg rest : List Byte) :
    unpack c (bodyBytes c seq ms code flags msg ++ rest) = ⟨seq, ms, code, flags,
      msg.take c.msgLen ++ List.replicate (c.msgLen - min msg.length c.msgLen) 0⟩ := by
  have hlen : (padMsg c msg).length = c.msgLen := by
    rw [padMsg, List.length_append, List.length_take, List.length_replicate]
    omega
  unfold padMsg at hlen
  generalize hpad : msg.take c.msgLen ++ List.replicate (c.msgLen - min msg.length c.msgLen) (0 : Byte) = pad at hlen
  simp only [bodyBytes, hpad, unpack, u32At, u16At, le32, le16]
  simp [← hlen]

theorem Memory.readN_eq_of_read {m m' : Memory} {addr n : Nat} (h : ∀ i < n, m.read (addr + i) = m'.read (addr + i)) :
    m.readN addr n = m'.readN addr n :=
  List.map_congr_left fun i hi => h i (List.mem_range.1 hi)

/-- A slot whose body bytes are `body` reads as `body` and its commit byte. -/
theorem readN_slot {c : Config} {m : Memory} {addr : Nat} {body : List Byte} (hlen : body.length = 12 + c.msgLen)
    (h : ∀ i < 12 + c.msgLen, m.read (addr + i) = body.getD i 0) :
    m.readN addr c.recordSize = body ++ [m.read (addr + (12 + c.msgLen))] := by
  have hsize : c.recordSize = 12 + c.msgLen + 1 := by unfold Config.recordSize; omega
  rw [hsize, Memory.readN, List.range_succ, List.map_append, List.map_singleton]
  congr 1
  refine List.ext_getElem (by simp [hlen]) fun i hi hi' => ?_
  simp [h i (by omega), List.getD_eq_getElem?_getD, hi']

/-- A record in a slot is what was programmed there. -/
theorem record_of_body {s : State} {k : Nat} {seq ms : Word} {code flags : Half} {msg : List Byte}
    (h : ∀ i < 12 + s.cfg.msgLen,
      s.nvm.read (slotAddr s.cfg k + i) = (bodyBytes s.cfg seq ms code flags msg).getD i 0) :
    s.record k = ⟨seq, ms, code, flags,
      msg.take s.cfg.msgLen ++ List.replicate (s.cfg.msgLen - min msg.length s.cfg.msgLen) 0⟩ := by
  rw [State.record, readN_slot (length_bodyBytes ..) h, unpack_bodyBytes]

/-- Programming an erased byte programs it, where the erased byte is all ones (R84). -/
theorem erased_and {c : Config} (h : c.erased = 0xFF) (b : Byte) : c.erased &&& b = b := by
  rw [h]
  exact BitVec.allOnes_and

/-! ## Where the erase step reaches (rules R88, R341) -/

section
variable {s : State} {j k a : Nat}

theorem afterErase_of_not_first (h : k % rps s.cfg ≠ 0) : afterErase s k a = s.nvm.read a := if_neg fun hc => h hc.1

/-- At the first slot of a sector the whole slot is erased. -/
theorem afterErase_of_first (hw : s.cfg.wf = true) (h : k % rps s.cfg = 0) (ha : slotAddr s.cfg k ≤ a)
    (ha' : a < slotAddr s.cfg k + s.cfg.recordSize) : afterErase s k a = s.cfg.erased :=
  if_pos ⟨h, slot_in_sector hw k ha ha'⟩

/-- A slot of another sector is left alone. -/
theorem afterErase_of_other_sector (hw : s.cfg.wf = true) (h : j / rps s.cfg ≠ k / rps s.cfg)
    (ha : slotAddr s.cfg j ≤ a) (ha' : a < slotAddr s.cfg j + s.cfg.recordSize) : afterErase s k a = s.nvm.read a :=
  if_neg fun hc => h (sector_unique (slot_in_sector hw j ha ha') hc.2)

/-- The commit byte of the slot at the cursor, which is EMPTY or is erased first. -/
theorem afterErase_commitAddr (hw : s.cfg.wf = true) (h : k % rps s.cfg ≠ 0 → s.slot k = .empty) :
    afterErase s k (commitAddr s.cfg k) = s.cfg.erased := by
  by_cases hfirst : k % rps s.cfg = 0
  · exact afterErase_of_first hw hfirst (commitAddr_in_slot _ k).1 (commitAddr_in_slot _ k).2
  · rw [afterErase_of_not_first hfirst]
    exact slot_eq_empty.1 (h hfirst)

end

/-! ## The slot an append writes, and the others (rules R342, R343) -/

section
variable {r : LogRequest} {now : Word} {s : State}

theorem inBody_add (c : Config) (k : Nat) {i : Nat} (hi : i < 12 + c.msgLen) : inBody c k (slotAddr c k + i) :=
  ⟨by omega, by omega⟩

theorem read_body_nvmWithBody (hm : s.nvm.wf) {i : Nat} (hi : i < 12 + s.cfg.msgLen) :
    (s.nvmWithBody r now).read (slotAddr s.cfg s.flash.cursor + i)
      = afterErase s s.flash.cursor (slotAddr s.cfg s.flash.cursor + i) &&& (s.bodyFor r now).getD i 0 := by
  rw [read_nvmWithBody hm, if_pos (inBody_add _ _ hi), Nat.add_sub_cancel_left]

theorem read_body_nvmWithRecord (hm : s.nvm.wf) {i : Nat} (hi : i < 12 + s.cfg.msgLen) :
    (s.nvmWithRecord r now).read (slotAddr s.cfg s.flash.cursor + i)
      = afterErase s s.flash.cursor (slotAddr s.cfg s.flash.cursor + i) &&& (s.bodyFor r now).getD i 0 := by
  rw [read_nvmWithRecord hm, if_pos (inBody_add _ _ hi), Nat.add_sub_cancel_left]

theorem read_commit_nvmWithRecord (hm : s.nvm.wf) :
    (s.nvmWithRecord r now).read (commitAddr s.cfg s.flash.cursor)
      = afterErase s s.flash.cursor (commitAddr s.cfg s.flash.cursor) &&& s.cfg.commitVal :=
  (read_nvmWithRecord hm _).trans ((if_neg (not_inBody_commit _ _)).trans (if_pos rfl))

theorem read_commit_nvmWithBody (hm : s.nvm.wf) :
    (s.nvmWithBody r now).read (commitAddr s.cfg s.flash.cursor)
      = afterErase s s.flash.cursor (commitAddr s.cfg s.flash.cursor) :=
  (read_nvmWithBody hm _).trans (if_neg (not_inBody_commit _ _))

/-- The body program touches no other slot. -/
theorem read_other_nvmWithBody (hw : s.cfg.wf = true) (hm : s.nvm.wf) {j a : Nat} (hj : j ≠ s.flash.cursor)
    (ha : slotAddr s.cfg j ≤ a) (ha' : a < slotAddr s.cfg j + s.cfg.recordSize) :
    (s.nvmWithBody r now).read a = afterErase s s.flash.cursor a := by
  refine (read_nvmWithBody hm a).trans (if_neg fun hbody => ?_)
  obtain ⟨hk, hk'⟩ := inBody_in_slot hbody
  exact hj (slot_unique hw ha ha' hk hk')

/-- The slot an append has written is VALID, where its commit byte was erased before. -/
theorem slot_appended (hw : s.cfg.wf = true) (he : s.cfg.erased = 0xFF) (hm : s.nvm.wf)
    (h : afterErase s s.flash.cursor (commitAddr s.cfg s.flash.cursor) = s.cfg.erased) :
    (appended r now s).slot s.flash.cursor = .valid := by
  refine (slot_eq_valid (s := appended r now s) (Config.wf_commit hw)).2 ?_
  refine (read_commit_nvmWithRecord hm).trans ?_
  rw [h, erased_and he]
  rfl

end

/-! ## The round trip (rule R360) -/

/-- FL_READ_LAST_N(1, 1), its read OK, of a log whose newest slot is VALID: the walk does not stop short. -/
theorem exec_flReadLastN_one {s : State} (hw : s.cfg.wf = true) (hi : s.flash.inited = true)
    (hd : s.draws.nvmAnswer = .ok) (hv : s.slot (slotBack s.cfg s.flash.cursor 1) = .valid) :
    ∃ u, exec (.flReadLastN 1 1) s = .next u
      ∧ u.result = .records .ok [s.record (slotBack s.cfg s.flash.cursor 1)] := by
  obtain ⟨u, st, rs, -, hexec, hresult, hle, hrecords, hstop, -, -, -, hok⟩ :=
    Proofs.readLastNWalksBackward s 1 1 hw hi
  have hlim : min (min (1 : Half).toNat (capacity s.cfg)) (1 : Half).toNat = 1 := by
    have hcap : 0 < capacity s.cfg := capacity_pos hw
    show min (min 1 (capacity s.cfg)) 1 = 1
    omega
  rw [hlim] at hle hstop hok
  obtain rfl : st = .ok := hok fun k hk => by
    obtain rfl : k = 0 := by omega
    exact hd
  have hlen : rs.length = 1 := by
    by_contra hne
    obtain rfl : rs = [] := List.length_eq_zero_iff.1 (by omega)
    exact hstop rfl (by simp) hv
  obtain ⟨r, rfl⟩ := List.length_eq_one_iff.1 hlen
  obtain ⟨-, hr⟩ := hrecords 0 (by simp)
  obtain rfl : r = s.record (slotBack s.cfg s.flash.cursor 1) := Option.some.inj hr
  exact ⟨u, hexec, hresult⟩

/-! ## The state a power loss leaves between body and commit (rules R347, R446) -/

section
variable {r : LogRequest} {now : Word} {s : State}

/-- The state after a power loss at cut 2 of an append of `r`. -/
def interrupted (r : LogRequest) (now : Word) (s : State) : State := volatileReset (atCommit r now s)

/-- The slot at the cursor stays EMPTY: its commit byte has not been programmed. -/
theorem slot_interrupted (hw : s.cfg.wf = true) (hm : s.nvm.wf)
    (h : s.flash.cursor % rps s.cfg ≠ 0 → s.slot s.flash.cursor = .empty) :
    (interrupted r now s).slot s.flash.cursor = .empty := by
  refine (slot_eq_empty (s := interrupted r now s)).2 ?_
  exact (read_commit_nvmWithBody hm).trans (afterErase_commitAddr hw h)

/-- Another slot is as it was, where its sector is not erased. -/
theorem slot_interrupted_of_ne (hw : s.cfg.wf = true) (hm : s.nvm.wf) {j : Nat} (hj : j ≠ s.flash.cursor)
    (h : s.flash.cursor % rps s.cfg = 0 → j / rps s.cfg ≠ s.flash.cursor / rps s.cfg) :
    (interrupted r now s).slot j = s.slot j ∧ (interrupted r now s).record j = s.record j := by
  have hread : ∀ a, slotAddr s.cfg j ≤ a → a < slotAddr s.cfg j + s.cfg.recordSize →
      (s.nvmWithBody r now).read a = s.nvm.read a := by
    intro a ha ha'
    rw [read_other_nvmWithBody hw hm hj ha ha']
    by_cases hfirst : s.flash.cursor % rps s.cfg = 0
    · exact afterErase_of_other_sector hw (h hfirst) ha ha'
    · exact afterErase_of_not_first hfirst
  constructor
  · exact congrArg (slotClass s.cfg) (hread _ (commitAddr_in_slot _ _).1 (commitAddr_in_slot _ _).2)
  · refine congrArg (unpack s.cfg) (Memory.readN_eq_of_read fun i hi => ?_)
    exact hread _ (Nat.le_add_right _ i) (Nat.add_lt_add_left hi _)

/-- No slot becomes VALID. -/
theorem slot_interrupted_ne_valid (hw : s.cfg.wf = true) (hm : s.nvm.wf)
    (h : s.flash.cursor % rps s.cfg ≠ 0 → s.slot s.flash.cursor = .empty) {j : Nat} (hj : s.slot j ≠ .valid) :
    (interrupted r now s).slot j ≠ .valid := by
  by_cases heq : j = s.flash.cursor
  · rw [heq, slot_interrupted hw hm h]
    exact nofun
  · by_cases hkept : s.flash.cursor % rps s.cfg = 0 → j / rps s.cfg ≠ s.flash.cursor / rps s.cfg
    · rwa [(slot_interrupted_of_ne hw hm heq hkept).1]
    · obtain ⟨hfirst, hsector⟩ : s.flash.cursor % rps s.cfg = 0 ∧ j / rps s.cfg = s.flash.cursor / rps s.cfg := by
        simpa using hkept
      have hempty : (interrupted r now s).slot j = .empty := by
        refine (slot_eq_empty (s := interrupted r now s)).2 ?_
        obtain ⟨ha, ha'⟩ := commitAddr_in_slot s.cfg j
        refine (read_other_nvmWithBody hw hm heq ha ha').trans (if_pos ⟨hfirst, ?_⟩)
        exact hsector ▸ slot_in_sector hw j ha ha'
      rw [hempty]
      exact nofun

/-- The slots before a first slot lie in the sectors before its own. -/
theorem sector_lt_of_lt {c : Config} (hw : c.wf = true) {j k : Nat} (hk : k % rps c = 0) (hj : j < k) :
    j / rps c < k / rps c := by
  rw [Nat.div_lt_iff_lt_mul (rps_pos hw), Nat.div_mul_cancel (Nat.dvd_of_mod_eq_zero hk)]
  exact hj

theorem isRecoveredCursor_interrupted (hw : s.cfg.wf = true) (hm : s.nvm.wf) (hk : s.flash.cursor < capacity s.cfg)
    (hbefore : ∀ j < s.flash.cursor, s.slot j ≠ .empty)
    (h : s.flash.cursor % rps s.cfg ≠ 0 → s.slot s.flash.cursor = .empty) :
    isRecoveredCursor (interrupted r now s) s.flash.cursor := by
  refine .inl ⟨hk, slot_interrupted hw hm h, fun j hj => ?_⟩
  rw [(slot_interrupted_of_ne hw hm (Nat.ne_of_lt hj) fun hfirst => Nat.ne_of_lt (sector_lt_of_lt hw hfirst hj)).1]
  exact hbefore j hj

/-- The newest record is the slot before the cursor, outside the sector about to be erased, or there is none. -/
def newestIsBefore (s : State) : Prop :=
  s.slot (slotBack s.cfg s.flash.cursor 1) = .valid
      ∧ s.flash.nextSeq = (s.record (slotBack s.cfg s.flash.cursor 1)).seq + 1
      ∧ (s.flash.cursor % rps s.cfg = 0 →
        slotBack s.cfg s.flash.cursor 1 / rps s.cfg ≠ s.flash.cursor / rps s.cfg)
    ∨ s.flash.nextSeq = 1 ∧ ∀ j < capacity s.cfg, s.slot j ≠ .valid

theorem isRecoveredSeq_interrupted (hw : s.cfg.wf = true) (hm : s.nvm.wf) (hk : s.flash.cursor < capacity s.cfg)
    (h : s.flash.cursor % rps s.cfg ≠ 0 → s.slot s.flash.cursor = .empty) (hnew : newestIsBefore s) :
    isRecoveredSeq (interrupted r now s) s.flash.cursor s.flash.nextSeq := by
  have hcap : 0 < capacity s.cfg := capacity_pos hw
  rcases hnew with ⟨hvalid, hseq, hsector⟩ | ⟨hseq, hnone⟩
  · have hne : slotBack s.cfg s.flash.cursor 1 ≠ s.flash.cursor := by
      intro heq
      by_cases hfirst : s.flash.cursor % rps s.cfg = 0
      · exact hsector hfirst (by rw [heq])
      · have := (slotBack_one hk hfirst).1
        omega
    obtain ⟨hslot, hrecord⟩ := slot_interrupted_of_ne (r := r) (now := now) hw hm hne hsector
    refine .inl ⟨1, Nat.le_refl 1, hcap, hslot.trans hvalid, fun e he he' => ?_, ?_⟩
    · omega
    · exact hseq.trans (congrArg (fun x : LogRecord => x.seq + 1) hrecord.symm)
  · exact .inr ⟨hseq, fun d _ _ => slot_interrupted_ne_valid hw hm h (hnone _ (slotBack_lt hcap))⟩

end

/-! ## Many appends (rules R341, R345, R348) -/

theorem erasedSectors_append (ops ops' : List NvmOp) :
    erasedSectors (ops ++ ops') = erasedSectors ops ++ erasedSectors ops' :=
  List.filterMap_append

theorem erasedSectors_of_reads {ops : List NvmOp} (h : ∀ op ∈ ops, op.isRead = true) : erasedSectors ops = [] := by
  refine List.filterMap_eq_nil_iff.2 fun op hop => ?_
  cases op with
  | read _ _ _ => rfl
  | erase _ _ | program _ _ _ => exact nomatch h _ hop

theorem erasedSectors_appendOps (c : Config) (k : Nat) (body : List Byte) :
    erasedSectors (appendOps c k body) = if k % rps c = 0 then [k / rps c] else [] := by
  unfold appendOps
  split <;> rfl

/-- The sectors that appends number `j + 1` to `j + n` since a fresh region erase (rule R348). -/
def erasesFrom (c : Config) (j n : Nat) : List Nat :=
  ((List.range' j n).filter fun i => i % rps c == 0).map fun i => i / rps c % c.logSectors

/-- Append number `j + 1` stands at slot `j mod CAPACITY`: it begins a sector exactly if `j` does. -/
theorem erasesFrom_succ (c : Config) (j n : Nat) (body : List Byte) :
    erasesFrom c j (n + 1) = erasedSectors (appendOps c (j % capacity c) body) ++ erasesFrom c (j + 1) n := by
  have hmod : j % capacity c % rps c = j % rps c := Nat.mod_mul_left_mod j c.logSectors (rps c)
  have hdiv : j % capacity c / rps c = j / rps c % c.logSectors := Nat.mod_mul_left_div_self j (rps c) c.logSectors
  rw [erasedSectors_appendOps, hmod, hdiv, erasesFrom, List.range'_succ]
  by_cases h : j % rps c = 0
  · simp [h, erasesFrom]
  · simp [h, erasesFrom]

/-- What the environment has settled: at least `m` transactions that return OK and `n` appends that are not cut. -/
def Settled (d : Draws) (m n : Nat) : Prop :=
  (∃ oks more, d.nvm = List.replicate oks .ok ++ more ∧ m ≤ oks) ∧ ∃ cuts, d.cut = List.replicate n none ++ cuts

section
variable {d : Draws} {m n : Nat}

theorem Settled.afterNvm (h : Settled d (m + 1) n) : d.nvmAnswer = .ok ∧ Settled d.afterNvm m n := by
  obtain ⟨⟨oks, more, hnvm, hle⟩, hcut⟩ := h
  obtain ⟨oks, rfl⟩ : ∃ k, oks = k + 1 := ⟨oks - 1, by omega⟩
  rw [List.replicate_succ, List.cons_append] at hnvm
  refine ⟨by simp [Draws.nvmAnswer, hnvm], ⟨oks, more, ?_, by omega⟩, ?_⟩
  · simp [Draws.afterNvm, hnvm]
  · rwa [Draws.afterNvm_cut]

theorem Settled.nvmAllOk (h : Settled d m n) : nvmAllOk m d := by
  induction m generalizing d with
  | zero => exact fun k hk => absurd hk (Nat.not_lt_zero k)
  | succ m ih => exact nvmAllOk_succ.2 ⟨h.afterNvm.1, ih h.afterNvm.2⟩

theorem Settled.afterNvms {k : Nat} (h : Settled d (k + m) n) : Settled (d.afterNvms k) m n := by
  induction k generalizing d with
  | zero => rwa [Nat.zero_add] at h
  | succ k ih =>
    rw [Nat.succ_add] at h
    exact ih h.afterNvm.2

theorem Settled.afterCut (h : Settled d m (n + 1)) : d.cutAnswer = none ∧ Settled d.afterCut m n := by
  obtain ⟨hnvm, cuts, hcut⟩ := h
  rw [List.replicate_succ, List.cons_append] at hcut
  refine ⟨by simp [Draws.cutAnswer, hcut], ?_⟩
  simp only [Settled, Draws.afterCut, hcut]
  exact ⟨hnvm, cuts, rfl⟩

theorem Settled.mono {m' : Nat} (h : Settled d m n) (hm : m' ≤ m) : Settled d m' n := by
  obtain ⟨⟨oks, more, hnvm, hle⟩, hcut⟩ := h
  exact ⟨⟨oks, more, hnvm, Nat.le_trans hm hle⟩, hcut⟩

end

theorem appendCount_le (c : Config) (k : Nat) : appendCount c k ≤ 3 := by
  unfold appendCount
  split <;> omega

/-- The operation that appends a request. -/
def appendInstr (x : LogRequest × Word) : Instr := .flAppend x.1.code x.1.flags x.1.msg x.2

/-- The erase-count law for a run of appends that begins with number `j + 1`: by induction on the run, each append
leaving the cursor at the slot of the next. -/
theorem execAll_appends_erases {s : State} (rs : List (LogRequest × Word)) {j : Nat} (hw : s.cfg.wf = true)
    (hi : s.flash.inited = true) (hk : s.flash.cursor = j % capacity s.cfg)
    (hd : Settled s.draws (3 * rs.length) rs.length) :
    ∃ t ops, execAll (rs.map appendInstr) s = .next t ∧ t.nvmOps = s.nvmOps ++ ops
      ∧ erasedSectors ops = erasesFrom s.cfg j rs.length := by
  induction rs generalizing s j with
  | nil => exact ⟨s, [], rfl, (List.append_nil _).symm, rfl⟩
  | cons x rs ih =>
    obtain ⟨hcut, hd⟩ := hd.afterCut
    have hcount : appendCount s.cfg s.flash.cursor ≤ 3 := appendCount_le _ _
    have hcap : 0 < capacity s.cfg := capacity_pos hw
    have hexec : exec (appendInstr x) s = .next (appended x.1 x.2 s) :=
      exec_flAppend_ok _ _ _ _ hi (hk ▸ Nat.mod_lt _ hcap) (uncut_of_cutAnswer_none hcut)
        (nvmAllOk_mono hd.nvmAllOk (by rw [List.length_cons]; omega))
    have hcursor : (appended x.1 x.2 s).flash.cursor = (j + 1) % capacity s.cfg := by
      show (s.flash.cursor + 1) % capacity s.cfg = _
      rw [hk, Nat.mod_add_mod]
    have hdraws : Settled (appended x.1 x.2 s).draws (3 * rs.length) rs.length :=
      Settled.afterNvms (hd.mono (by rw [List.length_cons]; omega))
    obtain ⟨t, ops, hrun, hops, herased⟩ := ih (s := appended x.1 x.2 s) hw rfl hcursor hdraws
    refine ⟨t, appendOps s.cfg s.flash.cursor (s.bodyFor x.1 x.2) ++ ops, ?_, ?_, ?_⟩
    · rw [List.map_cons, execAll_cons_of_next hexec, hrun]
    · rw [hops, ← List.append_assoc]
      rfl
    · rw [erasedSectors_append, herased, hk, List.length_cons]
      exact (erasesFrom_succ _ _ _ _).symm

/-- A fresh region: its first slot is the cursor, and there is no record (rule R65). -/
theorem recovered_of_erased {s : State} (hw : s.cfg.wf = true) (h : ∀ k < capacity s.cfg, s.slot k = .empty) :
    isRecoveredCursor s 0 ∧ isRecoveredSeq s 0 1 := by
  have hcap : 0 < capacity s.cfg := capacity_pos hw
  refine ⟨.inl ⟨hcap, h 0 hcap, nofun⟩, .inr ⟨rfl, fun d _ _ => ?_⟩⟩
  rw [h _ (slotBack_lt hcap)]
  exact nofun

/-- Every slot of a region of erased bytes is EMPTY. -/
theorem slot_of_erased {s : State} (hw : s.cfg.wf = true)
    (h : ∀ a, s.cfg.logBase ≤ a → a < s.cfg.logBase + s.cfg.logSectors * s.cfg.sectorSize → s.nvm.read a = s.cfg.erased)
    {k : Nat} (hk : k < capacity s.cfg) : s.slot k = .empty := by
  obtain ⟨ha, ha'⟩ := commitAddr_in_slot s.cfg k
  obtain ⟨hlow, hhigh⟩ := slot_in_sector hw k ha ha'
  have hsector : (k / rps s.cfg + 1) * s.cfg.sectorSize ≤ s.cfg.logSectors * s.cfg.sectorSize :=
    Nat.mul_le_mul_right _ (sector_lt hk)
  exact slot_eq_empty.2 (h _ (by omega) (by omega))

end Sys2Proof.Machine

namespace Sys2Proof.Proofs

open Sys2Proof Sys2Proof.Machine

/-- Settles O48: the slot written is VALID and holds the body (`record_of_body`), and it is the one before the advanced
cursor. -/
theorem appendedRecordReadsBack : Obligations.AppendedRecordReadsBack := by
  intro s code flags msg now hw he hm hi hk herased hu hd
  let r : LogRequest := ⟨code, flags, msg⟩
  let t : State := appended r now s
  have hafter : ∀ i < s.cfg.recordSize,
      afterErase s s.flash.cursor (slotAddr s.cfg s.flash.cursor + i) = s.cfg.erased := by
    intro i hlt
    by_cases hfirst : s.flash.cursor % rps s.cfg = 0
    · exact afterErase_of_first hw hfirst (by omega) (by omega)
    · rw [afterErase_of_not_first hfirst]
      exact herased.resolve_right hfirst i hlt
  have hback : slotBack s.cfg t.flash.cursor 1 = s.flash.cursor := slotBack_advance hk
  have hsize : s.cfg.recordSize = 12 + s.cfg.msgLen + 1 := by unfold Config.recordSize; omega
  have hvalid : t.slot (slotBack s.cfg t.flash.cursor 1) = .valid := by
    rw [hback]
    exact slot_appended hw he hm (hafter _ (by rw [bodyLen]; omega))
  have hbody : ∀ i < 12 + s.cfg.msgLen,
      t.nvm.read (slotAddr s.cfg s.flash.cursor + i) = (s.bodyFor r now).getD i 0 := by
    intro i hlt
    refine (read_body_nvmWithRecord hm hlt).trans ?_
    rw [hafter i (by omega), erased_and he]
  have hrecord := hback.symm ▸ record_of_body (s := t) hbody
  have hanswer : t.draws.nvmAnswer = .ok := hd _ (Nat.lt_succ_self _)
  obtain ⟨u, hread, hresult⟩ := exec_flReadLastN_one (s := t) hw rfl hanswer hvalid
  refine ⟨t, u, exec_flAppend_ok code flags msg now hi hk hu (nvmAllOk_mono hd (Nat.le_succ _)), hread, ?_⟩
  exact hresult.trans (congrArg (fun x => OpResult.records .ok [x]) hrecord)

/-- Settles O47: what the power loss leaves is what FL_INIT recovers (`isRecoveredCursor_interrupted`,
`isRecoveredSeq_interrupted`), and the second append finds the first one's body in its slot. -/
theorem interruptedAppendIsRepeated : Obligations.InterruptedAppendIsRepeated := by
  intro s code flags code' flags' msg msg' now now' hw he hm hi hk c k q body body' hbefore hempty hnew hcut hd
  let r : LogRequest := ⟨code, flags, msg⟩
  let t : State := interrupted r now s
  have hmt : t.nvm.wf := wf_nvmWithBody hm
  have hslot : t.slot k = .empty := slot_interrupted hw hm hempty
  have hd' : nvmAllOk (eraseCount s.cfg s.flash.cursor + 1) s.draws.afterCut := by
    rw [appendCount_eq] at hd
    exact hd
  refine ⟨t, exec_flAppend_cut2 code flags msg now hi hk hcut hd', hslot, fun hreads => ?_⟩
  obtain ⟨n, ops, -, -, hinit⟩ := exec_flInit_ok (s := t) hw hreads
    (isRecoveredCursor_interrupted hw hm hk hbefore hempty) (isRecoveredSeq_interrupted hw hm hk hempty hnew)
  let u : State := initialised t k q n ops
  let r' : LogRequest := ⟨code', flags', msg'⟩
  refine ⟨u, hinit, rfl, rfl, rfl, fun hu hd2 => ?_⟩
  have hread : ∀ i < 12 + c.msgLen, (appended r' now' u).nvm.read (slotAddr c k + i)
      = afterErase u k (slotAddr c k + i) &&& body'.getD i 0 :=
    fun i hlt => read_body_nvmWithRecord (s := u) hmt hlt
  refine ⟨_, exec_flAppend_ok code' flags' msg' now' (s := u) rfl hk hu hd2, ?_, rfl, fun hfirst i hlt => ?_,
    fun hfirst i hlt => ?_⟩
  · exact slot_appended (s := u) hw he hmt (afterErase_commitAddr (s := u) hw fun _ => hslot)
  · have hfirstBody : t.nvm.read (slotAddr c k + i) = afterErase s k (slotAddr c k + i) &&& body.getD i 0 :=
      read_body_nvmWithBody hm hlt
    rw [hread i hlt, afterErase_of_not_first (s := u) hfirst, ← afterErase_of_not_first (s := s) hfirst, ← hfirstBody]
    rfl
  · have hin : slotAddr c k + i < slotAddr c k + c.recordSize := by unfold Config.recordSize; omega
    have herased : afterErase u k (slotAddr c k + i) = c.erased :=
      afterErase_of_first (s := u) hw hfirst (Nat.le_add_right _ i) hin
    rw [hread i hlt, herased, erased_and he]

/-- Settles O49: FL_INIT recovers cursor 0 by reads only, and the appends that follow obey the law from number 1 on
(`execAll_appends_erases`). -/
theorem oneEraseForEachSectorFilled : Obligations.OneEraseForEachSectorFilled := by
  intro s rs oks more cuts hw hm hfresh hnvm hle hcut
  have hd : Settled s.draws (2 * capacity s.cfg + 3 * rs.length) rs.length := ⟨⟨oks, more, hnvm, hle⟩, cuts, hcut⟩
  obtain ⟨hcursor, hseq⟩ := recovered_of_erased hw fun k hk => slot_of_erased hw hfresh hk
  obtain ⟨n, reads, hn, hread, hinit⟩ :=
    exec_flInit_ok hw (nvmAllOk_mono hd.nvmAllOk (Nat.le_add_right _ _)) hcursor hseq
  have hdraws : Settled (initialised s 0 1 n reads).draws (3 * rs.length) rs.length :=
    Settled.afterNvms (hd.mono (by omega))
  obtain ⟨t, ops, hrun, hops, herased⟩ := execAll_appends_erases (s := initialised s 0 1 n reads) rs (j := 0) hw rfl
    (Nat.zero_mod _).symm hdraws
  refine ⟨t, reads ++ ops, (execAll_cons_of_next hinit _).trans hrun, ?_, ?_⟩
  · rw [hops, ← List.append_assoc]
    rfl
  · rw [erasedSectors_append, erasedSectors_of_reads hread, herased, List.range_eq_range']
    rfl

end Sys2Proof.Proofs
end

section
/-! The status words bit by bit (rules R371 to R376), and SW_READ (rule R378). -/

namespace Sys2Proof.Machine

/-! ## The bits of a word built of Bools -/

theorem getLsbD_wordBit (b : Bool) (k : Nat) {i : Nat} (hi : i < 16) :
    (wordBit b k).getLsbD i = (b && decide (i = k)) := by
  cases b with
  | false => simp [wordBit]
  | true =>
    have hone : (1 : Half).getLsbD (i - k) = decide (i - k = 0) := by simp [BitVec.getLsbD_one]
    rw [wordBit, if_pos rfl, BitVec.getLsbD_shiftLeft, hone, Bool.eq_iff_iff]
    simp only [Bool.and_eq_true, Bool.not_eq_true', decide_eq_true_eq, decide_eq_false_iff_not, true_and]
    omega

section
variable (s : State)

/-- The free bits of the debug word are 0 to 3 and 12 to 15 (rule R372). -/
theorem getLsbD_debugWord {i : Nat} (hlow : 4 ≤ i) (hhigh : i < 12) :
    (debugWord s).getLsbD i = (debugBits s).getLsbD i := by
  have hmask : (0xF00F : Half).getLsbD i = false := by
    interval_cases i <;> rfl
  rw [debugWord, BitVec.getLsbD_or, BitVec.getLsbD_and, hmask, Bool.and_false, Bool.or_false]

theorem activeWord_eq : activeWord s = activeBits s ||| (Config.freeStatusBits s.draws.count &&& (0x00C0 : Half))
    ||| (tempByte s).setWidth 16 <<< 8 := rfl

/-- The free bits of the active word are 6 and 7, and its temperature byte stands above them (rules R372, R374). -/
theorem getLsbD_activeWord_low {i : Nat} (h : i < 6) : (activeWord s).getLsbD i = (activeBits s).getLsbD i := by
  have hmask : (0x00C0 : Half).getLsbD i = false := by
    interval_cases i <;> rfl
  have hbyte : ((tempByte s).setWidth 16 <<< 8).getLsbD i = false := by
    rw [BitVec.getLsbD_shiftLeft, decide_eq_true (show i < 8 by omega)]
    simp
  rw [activeWord_eq, BitVec.getLsbD_or, BitVec.getLsbD_or, BitVec.getLsbD_and, hmask, hbyte, Bool.and_false,
    Bool.or_false, Bool.or_false]

/-- Bits 8 to 15 of the active word are the temperature byte (rule R374). -/
theorem extractLsb'_activeWord : (activeWord s).extractLsb' 8 8 = tempByte s := by
  refine BitVec.eq_of_getLsbD_eq fun i hi => ?_
  have hmask : (0x00C0 : Half).getLsbD (8 + i) = false := by
    interval_cases i <;> rfl
  have hbits : (activeBits s).getLsbD (8 + i) = false := by
    simp only [activeBits, BitVec.getLsbD_or, getLsbD_wordBit _ _ (show 8 + i < 16 by omega)]
    simp
    omega
  have hbyte : ((tempByte s).setWidth 16 <<< 8).getLsbD (8 + i) = (tempByte s).getLsbD i := by
    have hin : 8 + i < 16 ∧ i < 16 := by omega
    simp [hin]
  rw [BitVec.getLsbD_extractLsb', activeWord_eq, BitVec.getLsbD_or, BitVec.getLsbD_or, BitVec.getLsbD_and, hmask, hbits,
    hbyte]
  simp [hi]

end

/-- The temperature byte as a number (rule R375). -/
theorem toNat_roundedTemp (t : Half) :
    (roundedTemp t).toNat = if t.toInt < 0 then 0 else min 255 ((t.toInt.toNat + 2) / 4) := by
  unfold roundedTemp quarterDegrees
  split
  · rfl
  · rw [BitVec.toNat_ofNat, Nat.mod_eq_of_lt (by omega)]

/-! ## SW_READ (rule R378) -/

section
variable {s : State}

theorem exec_swRead_debug (h : s.scan.started = true) :
    exec (.swRead s.cfg.varStatusDebug) s = done (.word (debugWord s)) s.countDraw := by
  simp [exec, execSwRead, h]

theorem exec_swRead_active (h : s.scan.started = true) (hne : s.cfg.varStatusActive ≠ s.cfg.varStatusDebug) :
    exec (.swRead s.cfg.varStatusActive) s = done (.word (activeWord s)) s.countDraw := by
  simp [exec, execSwRead, h, hne]

theorem exec_swRead_other (h : s.scan.started = true) {var : Byte} (hd : var ≠ s.cfg.varStatusDebug)
    (ha : var ≠ s.cfg.varStatusActive) : exec (.swRead var) s = .refused .variableNotBuilt := by
  simp [exec, execSwRead, h, hd, ha]

end

end Sys2Proof.Machine

namespace Sys2Proof.Proofs

open Sys2Proof Sys2Proof.Machine

/-- Settles O55: each listed bit is that of `debugBits`, where one `wordBit` stands at it. -/
theorem debugWordShowsListedBits : Obligations.DebugWordShowsListedBits := by
  intro s hstart
  refine ⟨debugWord s, exec_swRead_debug hstart, ?_, ?_, ?_, ?_, ?_, ?_, ?_, ?_,
    fun var hd ha => exec_swRead_other hstart hd ha⟩
  all_goals
    rw [getLsbD_debugWord s (by decide) (by decide)]
    simp only [debugBits, BitVec.getLsbD_or, getLsbD_wordBit, Nat.reduceLT]
    simp

/-- Settles O56: bits 0 to 5 are those of `activeBits`, and the byte above is the rounded reading. -/
theorem activeWordShowsListedBits : Obligations.ActiveWordShowsListedBits := by
  intro s hstart hne
  refine ⟨activeWord s, exec_swRead_active hstart hne, ?_, ?_, ?_, ?_, ?_, ?_, ?temp⟩
  case temp =>
    intro th hth
    rw [extractLsb'_activeWord, tempByte, hth]
    exact toNat_roundedTemp th.temp
  all_goals
    rw [getLsbD_activeWord_low s (by decide)]
    simp only [activeBits, BitVec.getLsbD_or, getLsbD_wordBit, Nat.reduceLT]
    simp [temperatureOk]

end Sys2Proof.Proofs
end

section
/-! The sharing discipline (rules R417, R43): which agent writes which element, for every operation but the resets and
an append cut by power loss. First the log's operations, then for each agent all that its operations can write, then
what each clause of the discipline reads off that. -/

namespace Sys2Proof.Machine

/-! ## The log's operations write the log only (rules R335 to R358) -/

/-- `t` is `s` but for FlashLog, the NVM, both traces, the draws and the result. -/
def LogOnly (s t : State) : Prop :=
  ∃ fl m es ops d r, t = { s with flash := fl, nvm := m, events := es, nvmOps := ops, draws := d, result := r }

theorem LogOnly.refl (s : State) : LogOnly s s := ⟨_, _, _, _, _, _, rfl⟩

theorem LogOnly.trans {s t u : State} (h : LogOnly s t) (h' : LogOnly t u) : LogOnly s u := by
  obtain ⟨_, _, _, _, _, _, rfl⟩ := h
  obtain ⟨_, _, _, _, _, _, rfl⟩ := h'
  exact ⟨_, _, _, _, _, _, rfl⟩

section
variable (s : State)

theorem flBegin_logOnly : LogOnly s (flBegin s) := ⟨_, _, _, _, _, _, rfl⟩

theorem setPhase_logOnly (p : FlPhase) : LogOnly s (setPhase p s) := ⟨_, _, _, _, _, _, rfl⟩

theorem flFail_logOnly (k : IoKind) : LogOnly s (flFail k s) := ⟨_, _, _, _, _, _, rfl⟩

theorem flDone_logOnly : LogOnly s (flDone s) := ⟨_, _, _, _, _, _, rfl⟩

theorem setResult_logOnly (r : OpResult) : LogOnly s (s.setResult r) := ⟨_, _, _, _, _, _, rfl⟩

theorem countDraw_logOnly : LogOnly s s.countDraw := ⟨_, _, _, _, _, _, rfl⟩

theorem sendFrame_logOnly (cmd var : Byte) (value : Option Half) : LogOnly s (sendFrame cmd var value s) := by
  rw [sendFrame_eq]
  exact ⟨_, _, _, _, _, _, rfl⟩

theorem nvmRead_logOnly (addr n : Nat) : LogOnly s (nvmRead addr n s).2 := by
  rcases s.draws.nvmAnswer.ok_or_fail with h | h
  · rw [nvmRead_ok h]
    exact ⟨_, _, _, _, _, _, rfl⟩
  · rw [nvmRead_fail h]
    exact ⟨_, _, _, _, _, _, rfl⟩

theorem nvmProgram_logOnly (addr : Nat) (bytes : List Byte) : LogOnly s (nvmProgram addr bytes s).2 := by
  rcases s.draws.nvmAnswer.ok_or_fail with h | h
  · rw [nvmProgram_ok h]
    exact ⟨_, _, _, _, _, _, rfl⟩
  · obtain ⟨_, _, heq⟩ := nvmProgram_fail (addr := addr) (bs := bytes) h
    rw [heq]
    exact ⟨_, _, _, _, _, _, rfl⟩

theorem nvmErase_logOnly (n : Nat) : LogOnly s (nvmErase n s).2 := by
  rcases s.draws.nvmAnswer.ok_or_fail with h | h
  · rw [nvmErase_ok h]
    exact ⟨_, _, _, _, _, _, rfl⟩
  · obtain ⟨_, _, -, heq⟩ := nvmErase_fail (n := n) h
    rw [heq]
    exact ⟨_, _, _, _, _, _, rfl⟩

end

theorem findEmpty_logOnly (ks : List Nat) (s : State) : LogOnly s (findEmpty ks s).2 := by
  induction ks generalizing s with
  | nil => exact .refl s
  | cons k ks ih =>
    have hread := nvmRead_logOnly s (commitAddr s.cfg k) 1
    unfold findEmpty
    split
    · rename_i t heq
      rwa [heq] at hread
    · rename_i b t heq
      rw [heq] at hread
      split
      · exact hread
      · exact hread.trans (ih t)

theorem findNewest_logOnly (ks : List Nat) (s : State) : LogOnly s (findNewest ks s).2 := by
  induction ks generalizing s with
  | nil => exact .refl s
  | cons k ks ih =>
    have hread := nvmRead_logOnly s (slotAddr s.cfg k) s.cfg.recordSize
    unfold findNewest
    split
    · rename_i t heq
      rwa [heq] at hread
    · rename_i b t heq
      rw [heq] at hread
      split
      · exact hread
      · exact hread.trans (ih t)

theorem readBack_logOnly (ks : List Nat) (s : State) : LogOnly s (readBack ks s).2 := by
  induction ks generalizing s with
  | nil => exact .refl s
  | cons k ks ih =>
    have hread := nvmRead_logOnly s (slotAddr s.cfg k) s.cfg.recordSize
    unfold readBack
    split
    · rename_i t heq
      rw [heq] at hread
      exact hread.trans (flFail_logOnly t _)
    · rename_i b t heq
      rw [heq] at hread
      split
      · exact hread.trans (ih t)
      · exact hread

theorem countValid_logOnly (ks : List Nat) (n : Nat) (s : State) : LogOnly s (countValid ks n s).2 := by
  induction ks generalizing n s with
  | nil => exact .refl s
  | cons k ks ih =>
    have hread := nvmRead_logOnly s (commitAddr s.cfg k) 1
    unfold countValid
    split
    · rename_i t heq
      rw [heq] at hread
      exact hread.trans (flFail_logOnly t _)
    · rename_i b t heq
      rw [heq] at hread
      exact hread.trans (ih _ t)

theorem initLog_logOnly (s : State) : LogOnly s (initLog s) := by
  have hempty := (flBegin_logOnly s).trans (findEmpty_logOnly (List.range (capacity s.cfg)) (flBegin s))
  unfold initLog
  split
  · rename_i t he
    rw [he] at hempty
    exact hempty.trans (flFail_logOnly t _)
  · rename_i e t he
    rw [he] at hempty
    have hnewest := hempty.trans (findNewest_logOnly (slotsBefore t.cfg (e.getD 0) (capacity t.cfg)) t)
    split
    · rename_i u hn
      rw [hn] at hnewest
      exact hnewest.trans (flFail_logOnly u _)
    · rename_i q u hn
      rw [hn] at hnewest
      exact hnewest.trans ⟨_, _, _, _, _, _, rfl⟩

/-! An append that no power loss cuts. -/

theorem appendCommit_logOnly (s : State) : LogOnly s (appendCommit none s) := by
  have hprogram := nvmProgram_logOnly s (commitAddr s.cfg s.flash.cursor) [s.cfg.commitVal]
  unfold appendCommit
  split
  · rename_i t heq
    rw [heq] at hprogram
    exact (hprogram.trans (flFail_logOnly t _)).trans (flDone_logOnly _)
  · rename_i t heq
    rw [heq] at hprogram
    exact hprogram.trans ⟨_, _, _, _, _, _, rfl⟩

theorem appendBody_logOnly (r : LogRequest) (now : Word) (s : State) : LogOnly s (appendBody none r now s) := by
  have hprogram := nvmProgram_logOnly s (slotAddr s.cfg s.flash.cursor) (recordBody s.cfg s.flash.nextSeq now r)
  unfold appendBody
  split
  · rename_i t heq
    rw [heq] at hprogram
    exact (hprogram.trans (flFail_logOnly t _)).trans (flDone_logOnly _)
  · rename_i t heq
    rw [heq] at hprogram
    exact (hprogram.trans (setPhase_logOnly t _)).trans (appendCommit_logOnly _)

theorem appendErase_logOnly (r : LogRequest) (now : Word) (s : State) : LogOnly s (appendErase none r now s) := by
  have herase := nvmErase_logOnly s (sectorOf s.cfg s.flash.cursor)
  unfold appendErase
  split
  · split
    · rename_i t heq
      rw [heq] at herase
      exact (herase.trans (flFail_logOnly t _)).trans (flDone_logOnly _)
    · rename_i t heq
      rw [heq] at herase
      exact (herase.trans (setPhase_logOnly t _)).trans (appendBody_logOnly r now _)
  · exact appendBody_logOnly r now s

theorem appendRecord_logOnly {s : State} (h : s.draws.cutAnswer = none) (r : LogRequest) (now : Word) :
    LogOnly s (appendRecord r now s) := by
  have hcut : (drawCut s).1 = none := h
  rw [appendRecord, hcut]
  exact LogOnly.trans ⟨_, _, _, _, _, _, rfl⟩ (appendErase_logOnly r now _)

/-! ## What each agent's operations can write (rules R3, R417) -/

/-- Flags of `f` at 1 are at 1 in `g`. -/
structure Raised (f g : SafetyFlags) : Prop where
  force   : f.forceError = true → g.forceError = true
  latched : f.faultLatched = true → g.faultLatched = true
  laser   : f.laserLatchedOff = true → g.laserLatchedOff = true

theorem Raised.refl (f : SafetyFlags) : Raised f f := ⟨id, id, id⟩

/-- All that one operation of an agent can do to a state, the resets and a cut append left out. -/
inductive AgentWrites (s : State) : Agent → State → Prop
  | scan {x act rs f latches q es r} (hf : Raised s.safety f) (hq : s.logq <+: q) :
    AgentWrites s .scan { s with
      scan := x, active := act, rules := rs, safety := f, latchQ := latches, logq := q, events := es, result := r }
  | thermal {g f q es r} (hb : g.bypass = s.thermal.bypass) (hf : Raised s.safety f)
      (hl : f.faultLatched = s.safety.faultLatched) (hq : s.logq <+: q) :
    AgentWrites s .thermal { s with thermal := g, safety := f, logq := q, events := es, result := r }
  | logWriter {req q fl m es ops d r} (hq : s.logq = req :: q) :
    AgentWrites s .logWriter { s with
      logq := q, flash := fl, nvm := m, events := es, nvmOps := ops, draws := d, result := r }
  | rxProducer {ls r} : AgentWrites s .rxProducer { s with links := ls, result := r }
  | linkConsumer {ls es r} : AgentWrites s .linkConsumer { s with links := ls, events := es, result := r }
  | resetHandler : AgentWrites s .resetHandler (rearmed s)
  | forceHandler : AgentWrites s .forceHandler (faulted s)
  | hostBypass {v es r} :
    AgentWrites s .host { s with thermal := { s.thermal with bypass := v }, events := es, result := r }
  | hostSignals {g r} (hr : s.signals.resetPending = true → g.resetPending = true)
      (hf : s.signals.forcePending = true → g.forcePending = true) :
    AgentWrites s .host { s with signals := g, result := r }
  | hostLinks {ls r} : AgentWrites s .host { s with links := ls, result := r }
  | hostLog {fl m es ops d r} :
    AgentWrites s .host { s with flash := fl, nvm := m, events := es, nvmOps := ops, draws := d, result := r }

theorem LogOnly.byHost {s t : State} (h : LogOnly s t) : AgentWrites s .host t := by
  obtain ⟨_, _, _, _, _, _, rfl⟩ := h
  exact .hostLog

theorem LogOnly.byLogWriter {s t : State} {req : LogRequest} {q : List LogRequest} (hq : s.logq = req :: q)
    (h : LogOnly (s.setLogq q) t) : AgentWrites s .logWriter t := by
  obtain ⟨_, _, _, _, _, _, rfl⟩ := h
  exact .logWriter hq

/-- If the answer is a next state, `P` holds of it. -/
def Answers (P : State → Prop) (o : Host.Outcome State Fault Refusal) : Prop := ∀ t, o = .next t → P t

section
variable {P : State → Prop} {s t : State}

theorem Answers.next (h : P t) : Answers P (.next t) := by
  rintro _ ⟨⟩
  exact h

theorem Answers.fault {r : Fault} : Answers P (.fault r) := fun _ h => nomatch h

theorem Answers.refused {r : Refusal} : Answers P (.refused r) := fun _ h => nomatch h

/-- An operation on a link runs on that link, or is refused (rule R142). -/
theorem Answers.onLink {link : Byte} {f : Link → Host.Outcome State Fault Refusal} (h : ∀ l, Answers P (f l)) :
    Answers P (Machine.onLink link s f) := by
  unfold Machine.onLink
  split
  · exact h _
  · exact .refused

/-- An operation on a ring buffer runs on its link, claimed, or is refused (rules R275, R441). -/
theorem Answers.onClaimed {link : Byte} {u : RingUser} {r : Refusal} {f : Link → Host.Outcome State Fault Refusal}
    (h : ∀ l, Answers P (f l)) :
    Answers P (Machine.onLink link s fun l =>
      match claimRing u l with
      | none => .refused r
      | some l => f l) := by
  refine .onLink fun l => ?_
  cases claimRing u l with
  | none => exact .refused
  | some l => exact h l

end

section
variable (s : State)

theorem receiveFrame_writes (link : Byte) (bytes : List Byte) :
    Answers (AgentWrites s .linkConsumer) (receiveFrame link bytes s) :=
  .onClaimed fun _ => .next .linkConsumer

theorem execScanStart_writes (raw : List Byte) (now : Word) :
    Answers (AgentWrites s .scan) (execScanStart raw now s) := by
  unfold execScanStart
  split
  · exact .refused
  · exact .next (.scan (.refl _) ⟨[], List.append_nil _⟩)

/-- The five rules raise flags and extend the queue (`runRules_eq`). -/
theorem runRules_writes (now : Word) :
    Raised s.safety (runRules now s).safety ∧ s.logq <+: (runRules now s).logq := by
  rw [runRules_eq]
  refine ⟨⟨fun h => ?_, fun h => ?_, fun h => ?_⟩, ?_⟩
  · simp [forceAfterRuleTwo, h]
  · simp [h]
  · simp [h]
  · have hqueue := isPrefix_queueAtRuleFour now s
    dsimp only
    split
    · exact hqueue.trans (isPrefix_queued _ _ _)
    · exact hqueue

theorem execScanTick_writes (raw : List Byte) (now : Word) :
    Answers (AgentWrites s .scan) (execScanTick raw now s) := by
  unfold execScanTick
  split
  · refine .next ?_
    unfold evaluate
    split
    · obtain ⟨hf, hq⟩ := runRules_writes (snapshot raw now s) now
      rw [runRules_eq] at hf hq ⊢
      exact .scan hf hq
    · exact .scan (.refl _) ⟨[], List.append_nil _⟩
  · exact .refused

/-- A trip raises two flags and makes a log request; nothing else of a sample reaches beyond ThermalGuard (rules R232 to
R237). -/
theorem execThermalSample_writes (temp : Half) (fl : Byte) (raw32 : Word) :
    Answers (AgentWrites s .thermal) (execThermalSample temp fl raw32 s) := by
  refine .next ?_
  split
  · exact .thermal rfl (.refl _) rfl ⟨[], List.append_nil _⟩
  · rcases hysteresis_cases temp fl (publish temp fl raw32 s) with ⟨h, -, -⟩ | ⟨-, -, h⟩ | ⟨-, -, h⟩ <;> rw [h]
    · exact .thermal rfl (.refl _) rfl ⟨[], List.append_nil _⟩
    · exact .thermal rfl (.refl _) rfl ⟨[], List.append_nil _⟩
    · rw [raise_overUnderTemp]
      exact .thermal rfl ⟨fun _ => rfl, id, fun _ => rfl⟩ rfl (isPrefix_queued _ _ _)

theorem execSetBypass_writes (v : Bool) : Answers (AgentWrites s .host) (execSetBypass v s) := by
  refine .next ?_
  split
  · exact (setResult_logOnly s _).byHost
  · exact .hostBypass

theorem execBtnEdge_writes (now : Word) : Answers (AgentWrites s .host) (execBtnEdge now s) := by
  refine .next ?_
  split
  · exact .hostSignals (fun _ => rfl) id
  · exact .hostSignals id id

theorem execDoReset_writes : Answers (AgentWrites s .resetHandler) (exec .doReset s) := by
  cases h : s.signals.resetPending with
  | false =>
    rw [exec_doReset_of_idle h]
    exact .refused
  | true =>
    rw [exec_doReset_of_pending h]
    exact .next .resetHandler

theorem execDoForce_writes : Answers (AgentWrites s .forceHandler) (exec .doForce s) := by
  cases h : s.signals.forcePending with
  | false =>
    rw [exec_doForce_of_idle h]
    exact .refused
  | true =>
    rw [exec_doForce_of_pending h]
    exact .next .forceHandler

theorem execLdSend_writes (link cmd var : Byte) (hasValue : Bool) (value : Half) :
    Answers (AgentWrites s .host) (execLdSend link cmd var hasValue value s) := by
  refine .onLink fun _ => ?_
  split
  · exact .next (sendFrame_logOnly s _ _ _).byHost
  · exact .refused

theorem execFlAppend_writes (h : s.draws.cutAnswer = none) (code flags : Half) (msg : List Byte) (now : Word) :
    Answers (AgentWrites s .host) (execFlAppend code flags msg now s) := by
  unfold execFlAppend
  split
  · split
    · exact .next (appendRecord_logOnly h _ now).byHost
    · exact .fault
  · exact .refused

/-- LOG_WRITE takes the head off the queue, then appends it (rule R350). -/
theorem execLogWrite_writes (h : s.draws.cutAnswer = none) (now : Word) :
    Answers (AgentWrites s .logWriter) (execLogWrite now s) := by
  unfold execLogWrite
  split
  · split
    · exact .refused
    · rename_i r rest hq
      split
      · exact .next ((appendRecord_logOnly (s := s.setLogq rest) h r now).byLogWriter hq)
      · exact .fault
  · exact .refused

theorem execFlReadLastN_writes (n maxOut : Half) : Answers (AgentWrites s .host) (execFlReadLastN n maxOut s) := by
  unfold execFlReadLastN
  split
  · exact .next (((flBegin_logOnly s).trans (readBack_logOnly _ _)).trans (setResult_logOnly _ _)).byHost
  · exact .refused

theorem execFlCountValid_writes : Answers (AgentWrites s .host) (execFlCountValid s) := by
  unfold execFlCountValid
  split
  · exact .next (((flBegin_logOnly s).trans (countValid_logOnly _ _ _)).trans (setResult_logOnly _ _)).byHost
  · exact .refused

theorem execSwRead_writes (var : Byte) : Answers (AgentWrites s .host) (execSwRead var s) := by
  have hdraw (w : Half) : AgentWrites s .host (s.countDraw.setResult (.word w)) :=
    ((countDraw_logOnly s).trans (setResult_logOnly _ _)).byHost
  unfold execSwRead
  split
  · split
    · exact .next (hdraw _)
    · split
      · exact .next (hdraw _)
      · exact .refused
  · exact .refused

end

/-- The operations the sharing discipline speaks of: no reset, and no append that a power loss cuts. -/
structure IsAgentWrite (i : Instr) (s : State) : Prop where
  notColdReset : i ≠ .coldReset
  notPowerLoss : i ≠ .powerLoss
  uncut        : (∃ code flags msg now, i = .flAppend code flags msg now) ∨ (∃ now, i = .logWrite now) →
    s.draws.cutAnswer = none

/-- Each operation writes what its agent may. -/
theorem exec_writes {i : Instr} {s : State} (h : IsAgentWrite i s) :
    Answers (AgentWrites s (agentOf i)) (exec i s) := by
  cases i with
  | frameReadReq link _ | frameReadReply link _ _ | frameWrite link _ _ | frameAck link _ _ =>
    exact receiveFrame_writes s link _
  | logRecord _ _ _ _ _ _ => exact .refused
  | coldReset => exact absurd rfl h.notColdReset
  | powerLoss => exact absurd rfl h.notPowerLoss
  | scanStart raw now => exact execScanStart_writes s raw now
  | scanTick raw now => exact execScanTick_writes s raw now
  | thermalSample temp fl raw32 => exact execThermalSample_writes s temp fl raw32
  | setBypass v => exact execSetBypass_writes s v
  | btnEdge now => exact execBtnEdge_writes s now
  | reqReset => exact .next (.hostSignals (fun _ => rfl) id)
  | reqForce => exact .next (.hostSignals id fun _ => rfl)
  | doReset => exact execDoReset_writes s
  | doForce => exact execDoForce_writes s
  | rbPut _ _ | rbGet _ | rbWrite _ _ => exact .onClaimed fun _ => .next .hostLinks
  | fpFeed _ _ => exact .onLink fun _ => .next .hostLinks
  | ldRxByte _ _ => exact .onClaimed fun _ => .next .rxProducer
  | ldPoll _ => exact .onClaimed fun _ => .next .linkConsumer
  | ldWriteU16 _ _ _ | ldReadU16 _ _ => exact .onLink fun _ => .next (sendFrame_logOnly s _ _ _).byHost
  | ldSend link cmd var hasValue value => exact execLdSend_writes s link cmd var hasValue value
  | flInit => exact .next ((initLog_logOnly s).trans (flDone_logOnly _)).byHost
  | flAppend code flags msg now => exact execFlAppend_writes s (h.uncut (.inl ⟨_, _, _, _, rfl⟩)) code flags msg now
  | flReadLastN n maxOut => exact execFlReadLastN_writes s n maxOut
  | flCountValid => exact execFlCountValid_writes s
  | logWrite now => exact execLogWrite_writes s (h.uncut (.inr ⟨_, rfl⟩)) now
  | swRead var => exact execSwRead_writes s var

/-! ## The clauses of the discipline -/

namespace AgentWrites

section
variable {s t : State} {a : Agent}

theorem scanner (h : AgentWrites s a t) (ha : a ≠ .scan) :
    t.scan = s.scan ∧ t.active = s.active ∧ t.rules = s.rules := by
  cases h with
  | scan => exact absurd rfl ha
  | _ => exact ⟨rfl, rfl, rfl⟩

/-- All that can become of the three flags: kept, raised by the agents of rule R40, or all of them set by a force or
cleared by a reset. -/
theorem safety (h : AgentWrites s a t) :
    t.safety = s.safety ∨ (a = .scan ∧ Raised s.safety t.safety)
      ∨ (a = .thermal ∧ Raised s.safety t.safety ∧ t.safety.faultLatched = s.safety.faultLatched)
      ∨ (a = .forceHandler ∧ t.safety = ⟨true, true, true⟩)
      ∨ (a = .resetHandler ∧ t.safety = ⟨false, false, false⟩) := by
  cases h with
  | scan hf => exact .inr (.inl ⟨rfl, hf⟩)
  | thermal _ hf hl => exact .inr (.inr (.inl ⟨rfl, hf, hl⟩))
  | forceHandler => exact .inr (.inr (.inr (.inl ⟨rfl, rfl⟩)))
  | resetHandler => exact .inr (.inr (.inr (.inr ⟨rfl, rfl⟩)))
  | _ => exact .inl rfl

/-- A flag, read off the three by `p`, is raised by Scan, Thermal or the ForceHandler only. -/
theorem flag_raised (h : AgentWrites s a t) {p : SafetyFlags → Bool} (hp : p ⟨false, false, false⟩ = false)
    (hs : p s.safety = false) (ht : p t.safety = true) : a = .scan ∨ a = .thermal ∨ a = .forceHandler := by
  rcases h.safety with heq | ⟨ha, -⟩ | ⟨ha, -⟩ | ⟨ha, -⟩ | ⟨-, heq⟩
  · exact absurd ht (by simp [heq, hs])
  · exact .inl ha
  · exact .inr (.inl ha)
  · exact .inr (.inr ha)
  · exact absurd ht (by simp [heq, hp])

/-- Thermal does not raise the latched-fault flag. -/
theorem faultLatched_raised (h : AgentWrites s a t) (hs : s.safety.faultLatched = false)
    (ht : t.safety.faultLatched = true) : a = .scan ∨ a = .forceHandler := by
  rcases h.safety with heq | ⟨ha, -⟩ | ⟨-, -, heq⟩ | ⟨ha, -⟩ | ⟨-, heq⟩
  · exact absurd ht (by simp [heq, hs])
  · exact .inl ha
  · exact absurd ht (by simp [heq, hs])
  · exact .inr ha
  · exact absurd ht (by simp [heq])

/-- A flag that stays up in a raise is cleared by the ResetHandler only. -/
theorem flag_cleared (h : AgentWrites s a t) {p : SafetyFlags → Bool} (hp : p ⟨true, true, true⟩ = true)
    (hraise : ∀ f g, Raised f g → p f = true → p g = true) (hs : p s.safety = true) (ht : p t.safety = false) :
    a = .resetHandler := by
  rcases h.safety with heq | ⟨-, hf⟩ | ⟨-, hf, -⟩ | ⟨-, heq⟩ | ⟨ha, -⟩
  · exact absurd ht (by simp [heq, hs])
  · exact absurd ht (by simp [hraise _ _ hf hs])
  · exact absurd ht (by simp [hraise _ _ hf hs])
  · exact absurd ht (by simp [heq, hp])
  · exact ha

theorem latchQ (h : AgentWrites s a t) (hne : t.latchQ ≠ s.latchQ) :
    a = .scan ∨ a = .forceHandler ∨ a = .resetHandler := by
  cases h with
  | scan => exact .inl rfl
  | forceHandler => exact .inr (.inl rfl)
  | resetHandler => exact .inr (.inr rfl)
  | _ => exact absurd rfl hne

theorem thermalGuard (h : AgentWrites s a t) (ha : a ≠ .thermal) :
    t.thermal.fault = s.thermal.fault ∧ t.thermal.tripTemp = s.thermal.tripTemp
      ∧ t.thermal.reading = s.thermal.reading := by
  cases h with
  | thermal => exact absurd rfl ha
  | _ => exact ⟨rfl, rfl, rfl⟩

theorem bypass (h : AgentWrites s a t) (ha : a ≠ .host) : t.thermal.bypass = s.thermal.bypass := by
  cases h with
  | thermal hb => exact hb
  | hostBypass => exact absurd rfl ha
  | _ => rfl

theorem logq_kept (h : AgentWrites s a t) (hscan : a ≠ .scan) (hthermal : a ≠ .thermal) (hwriter : a ≠ .logWriter) :
    t.logq = s.logq := by
  cases h with
  | scan => exact absurd rfl hscan
  | thermal => exact absurd rfl hthermal
  | logWriter => exact absurd rfl hwriter
  | _ => rfl

theorem logq_extended (h : AgentWrites s a t) (ha : a = .scan ∨ a = .thermal) : s.logq <+: t.logq := by
  cases h with
  | scan _ hq => exact hq
  | thermal _ _ _ hq => exact hq
  | logWriter => simp at ha
  | _ => exact ⟨[], List.append_nil _⟩

theorem logq_shortened (h : AgentWrites s a t) (ha : a = .logWriter) : ∃ r, s.logq = r :: t.logq := by
  cases h with
  | logWriter hq => exact ⟨_, hq⟩
  | _ => exact nomatch ha

theorem resetPending_raised (h : AgentWrites s a t) (hs : s.signals.resetPending = false)
    (ht : t.signals.resetPending = true) : a = .host := by
  cases h with
  | hostBypass | hostSignals | hostLinks | hostLog => rfl
  | resetHandler => exact nomatch ht
  | _ => exact absurd ht (by simp [hs, faulted])

theorem resetPending_cleared (h : AgentWrites s a t) (hs : s.signals.resetPending = true)
    (ht : t.signals.resetPending = false) : a = .resetHandler := by
  cases h with
  | resetHandler => rfl
  | hostSignals hr => exact absurd ht (by simp [hr hs])
  | _ => exact absurd ht (by simp [hs, faulted])

theorem forcePending_raised (h : AgentWrites s a t) (hs : s.signals.forcePending = false)
    (ht : t.signals.forcePending = true) : a = .host := by
  cases h with
  | hostBypass | hostSignals | hostLinks | hostLog => rfl
  | forceHandler => exact nomatch ht
  | _ => exact absurd ht (by simp [hs, rearmed])

theorem forcePending_cleared (h : AgentWrites s a t) (hs : s.signals.forcePending = true)
    (ht : t.signals.forcePending = false) : a = .forceHandler := by
  cases h with
  | forceHandler => rfl
  | hostSignals _ hf => exact absurd ht (by simp [hf hs])
  | _ => exact absurd ht (by simp [hs, rearmed])

theorem button (h : AgentWrites s a t) (ha : a ≠ .host) :
    t.signals.btnSeen = s.signals.btnSeen ∧ t.signals.btnLastMs = s.signals.btnLastMs := by
  cases h with
  | hostSignals => exact absurd rfl ha
  | _ => exact ⟨rfl, rfl⟩

theorem log (h : AgentWrites s a t) (hwriter : a ≠ .logWriter) (hhost : a ≠ .host) :
    t.flash = s.flash ∧ t.nvm = s.nvm ∧ t.nvmOps = s.nvmOps := by
  cases h with
  | logWriter => exact absurd rfl hwriter
  | hostLog => exact absurd rfl hhost
  | _ => exact ⟨rfl, rfl, rfl⟩

theorem links (h : AgentWrites s a t) (hrx : a ≠ .rxProducer) (hconsumer : a ≠ .linkConsumer) (hhost : a ≠ .host) :
    t.links = s.links := by
  cases h with
  | rxProducer => exact absurd rfl hrx
  | linkConsumer => exact absurd rfl hconsumer
  | hostLinks => exact absurd rfl hhost
  | _ => rfl

end

end AgentWrites

/-! ## The two sides of a link (rules R43, R322) -/

section
variable {c : Config} {role : Role} {l : Link}

/-- A put writes the storage and the head only (rule R271). -/
theorem rxByte_frame (b : Byte) :
    rxByte c b l = { l with
      rbBuf := (rxByte c b l).rbBuf, rbHead := (rxByte c b l).rbHead, rxNotify := true } := by
  by_cases h : ringCount l = c.rbN
  · rw [rxByte_full h]
  · rw [rxByte_room h]

/-- Draining writes neither the storage nor the head (rule R272). -/
theorem drain_keeps_producer (n : Nat) :
    (drain c role n l).1.rbHead = l.rbHead ∧ (drain c role n l).1.rbBuf = l.rbBuf := by
  induction n generalizing l with
  | zero => exact ⟨rfl, rfl⟩
  | succ n ih =>
    by_cases h : ringCount l = 0
    · rw [drain_empty h]
      exact ⟨rfl, rfl⟩
    · rw [drain_succ h]
      obtain ⟨hhead, hbuf⟩ := ih (l := (fpFeed c role (l.rbBuf.getD (ringIndex c l.rbTail) 0)
        { l with rbTail := l.rbTail + 1 }).1)
      exact ⟨hhead.trans (fpFeed_rbHead _), hbuf.trans (fpFeed_rbBuf _)⟩

end

section
variable {s t : State} {link : Byte} {l : Link}

/-- An operation on a claimed link that answers has claimed it. -/
theorem claimed_of_next {u : RingUser} {r : Refusal} {f : Link → Host.Outcome State Fault Refusal}
    (hl : s.links[link.toNat]? = some l)
    (h : (onLink link s fun l =>
      match claimRing u l with
      | none => .refused r
      | some l => f l) = .next t) : f { l with user := some u } = .next t := by
  rw [onLink_eq hl] at h
  by_cases hu : l.user = none ∨ l.user = some u
  · rwa [claimRing_eq_some hu] at h
  · simp [claimRing, hu] at h

/-- The RxProducer leaves the consumer's side of its link: the tail and the parser. -/
theorem exec_ldRxByte_keeps {b : Byte} (h : exec (.ldRxByte link b) s = .next t)
    (hl : s.links[link.toNat]? = some l) :
    ∃ l', t.links[link.toNat]? = some l' ∧ l'.rbTail = l.rbTail ∧ l'.fpState = l.fpState ∧ l'.fpIdx = l.fpIdx
      ∧ l'.fpExpected = l.fpExpected ∧ l'.fpBuf = l.fpBuf := by
  cases claimed_of_next hl h
  refine ⟨_, links_setLink_self hl _ .nothing, ?_⟩
  rw [rxByte_frame]
  exact ⟨rfl, rfl, rfl, rfl, rfl⟩

/-- The LinkConsumer leaves the producer's side of its link: the head and the storage. -/
theorem exec_ldPoll_keeps (h : exec (.ldPoll link) s = .next t) (hl : s.links[link.toNat]? = some l) :
    ∃ l', t.links[link.toNat]? = some l' ∧ l'.rbHead = l.rbHead ∧ l'.rbBuf = l.rbBuf := by
  cases claimed_of_next hl h
  exact ⟨_, links_setLink_self hl _ .nothing, drain_keeps_producer _⟩

end

end Sys2Proof.Machine

namespace Sys2Proof.Proofs

open Sys2Proof Sys2Proof.Machine

/-- Settles O60: each clause is read off what the agent's operations can write (`exec_writes`). -/
theorem sharingDiscipline : Obligations.SharingDiscipline := by
  intro i s t hexec hcold hpower hcut a
  have h : AgentWrites s a t := exec_writes ⟨hcold, hpower, hcut⟩ t hexec
  exact ⟨h.scanner,
    h.flag_raised (p := SafetyFlags.forceError) rfl,
    h.flag_cleared (p := SafetyFlags.forceError) rfl fun _ _ hf => hf.force,
    h.faultLatched_raised,
    h.flag_cleared (p := SafetyFlags.faultLatched) rfl fun _ _ hf => hf.latched,
    h.flag_raised (p := SafetyFlags.laserLatchedOff) rfl,
    h.flag_cleared (p := SafetyFlags.laserLatchedOff) rfl fun _ _ hf => hf.laser,
    h.latchQ, h.thermalGuard, h.bypass, h.logq_kept, h.logq_extended, h.logq_shortened,
    h.resetPending_raised, h.resetPending_cleared, h.forcePending_raised, h.forcePending_cleared, h.button, h.log,
    h.links,
    fun link b l hi hl => exec_ldRxByte_keeps (hi ▸ hexec) hl,
    fun link l hi hl => exec_ldPoll_keeps (hi ▸ hexec) hl⟩

end Sys2Proof.Proofs
end

section
/-! The resets (rules R430, R431), and the hazard of rule R450: a reset during a persisting power fault. -/

namespace Sys2Proof.Machine

/-! ## A sample that shows no change -/

/-- The sample `raw` agrees with every stable input. -/
def Agrees (raw : List Byte) (s : State) : Prop := ∀ i < s.cfg.nin, rawBit raw i = s.st i

/-- A tick whose sample agrees leaves every input as it is (rule R172). -/
theorem snapshot_st_of_agrees {raw : List Byte} {s : State} (h : Agrees raw s) (now : Word) {i : Nat}
    (hi : i < s.cfg.nin) : (snapshot raw now s).st i = s.st i := by
  rw [snapshot_st raw now hi, debounceAt, debounceOne_agree (h i hi)]

/-! ## The state after a reset in a power fault (rule R450) -/

/-- Rule 4 is active on a bad 24 V rail and remembers it, the latch-error lines are at 0 and the door is not closed,
the flags are 0 and the latches armed; the rules are evaluated. -/
structure ResetInPowerFault (s : State) : Prop where
  started   : s.scan.started = true
  ready     : s.scan.systemReady = true
  rail      : s.st inV24 = false
  railInput : inV24 < s.cfg.nin
  lines     : ∀ j < s.cfg.nLatchErr, s.st (inLatchErr s.cfg j) = false
  door      : s.st inDoor = false
  seen      : s.rules.r4Last = true
  reported  : s.active.powerGood = true
  flags     : s.safety = ⟨false, false, false⟩
  armed     : s.latchQ = List.replicate s.cfg.nLatch true

namespace ResetInPowerFault

section
variable {s : State}

/-- A sample that agrees keeps it: the inputs are as they were. -/
theorem snapshot (h : ResetInPowerFault s) {raw : List Byte} (now : Word) (hraw : Agrees raw s) :
    ResetInPowerFault (Machine.snapshot raw now s) := by
  have hin : inDoor < s.cfg.nin := Nat.lt_of_le_of_lt (Nat.zero_le _) h.railInput
  have hline : ∀ j < s.cfg.nLatchErr, inLatchErr s.cfg j < s.cfg.nin := fun j hj => by
    unfold inLatchErr Config.nin
    omega
  exact {
    started   := h.started
    ready     := snapshot_ready.2 (.inl h.ready)
    rail      := (snapshot_st_of_agrees hraw now h.railInput).trans h.rail
    railInput := h.railInput
    lines     := fun j hj => (snapshot_st_of_agrees hraw now (hline j hj)).trans (h.lines j hj)
    door      := (snapshot_st_of_agrees hraw now hin).trans h.door
    seen      := h.seen
    reported  := h.reported
    flags     := h.flags
    armed     := h.armed }

/-- No rule acts: rule 2 is suppressed by the door, rule 3 finds neither a line nor the force flag, rule 4 has seen the
fault before. -/
theorem no_rule_acts (h : ResetInPowerFault s) (now : Word) :
    forceAfterRuleTwo now s = false ∧ ruleThreeActsAfter now s = false ∧ ruleFourActs s = false := by
  have htwo : ruleTwo now s = false := ruleTwo_of_suppressed (by simp [ruleTwoWatches, all4, h.door])
  have hforce : forceAfterRuleTwo now s = false := by simp [forceAfterRuleTwo, htwo, h.flags]
  have hline : latchErrLine s = false := by simpa [latchErrLine] using h.lines
  exact ⟨hforce, by simp [ruleThreeActsAfter, hline, hforce], by simp [ruleFourActs, h.seen]⟩

/-- The rules keep it: rule 4 goes on reporting the bad rail. -/
theorem runRules (h : ResetInPowerFault s) (now : Word) : ResetInPowerFault (Machine.runRules now s) := by
  obtain ⟨hforce, hthree, hfour⟩ := h.no_rule_acts now
  have hbad : railBad s = true := railBad_iff.2 (.inr (.inl h.rail))
  rw [runRules_eq]
  exact {
    started   := h.started
    ready     := h.ready
    rail      := h.rail
    railInput := h.railInput
    lines     := h.lines
    door      := h.door
    seen      := hbad
    reported  := hbad
    flags     := by simp [hforce, hthree, hfour, h.flags]
    armed     := by simpa [hthree] using h.armed }

/-- The result of an operation is none of its elements. -/
theorem setResult (h : ResetInPowerFault s) (r : OpResult) : ResetInPowerFault (s.setResult r) := { h with }

/-- One tick whose sample agrees. -/
theorem tick (h : ResetInPowerFault s) {raw : List Byte} (now : Word) (hraw : Agrees raw s) :
    ∃ t, exec (.scanTick raw now) s = .next t ∧ ResetInPowerFault t ∧ t.cfg = s.cfg
      ∧ ∀ i < s.cfg.nin, t.st i = s.st i := by
  have hrules := (h.snapshot now hraw).runRules now
  refine ⟨_, execScanTick_ready h.started (.inl h.ready), hrules.setResult .nothing, ?_, fun i hi => ?_⟩
  · rw [State.setResult_cfg, (runRules_extends now _).cfg, snapshot_cfg]
  · rw [State.setResult_st, runRules_st, snapshot_st_of_agrees hraw now hi]

/-- Any number of such ticks (rule R450). -/
theorem run (h : ResetInPowerFault s) (ticks : List (List Byte × Word)) (hraw : ∀ x ∈ ticks, Agrees x.1 s) :
    ∃ t, execAll (scanTicks ticks) s = .next t ∧ ResetInPowerFault t ∧ t.cfg = s.cfg := by
  induction ticks generalizing s with
  | nil => exact ⟨s, rfl, h, rfl⟩
  | cons x ticks ih =>
    obtain ⟨u, hu, hquiet, hcfg, hst⟩ := h.tick x.2 (hraw x List.mem_cons_self)
    have hrest : ∀ y ∈ ticks, Agrees y.1 u := by
      intro y hy i hi
      rw [hcfg] at hi
      rw [hst i hi]
      exact hraw y (List.mem_cons_of_mem x hy) i hi
    obtain ⟨t, ht, hend, hcfg'⟩ := ih hquiet hrest
    exact ⟨t, (execAll_scanTicks_cons hu).trans ht, hend, hcfg'.trans hcfg⟩

end

end ResetInPowerFault

end Sys2Proof.Machine

namespace Sys2Proof.Proofs

open Sys2Proof Sys2Proof.Machine

/-- Settles O6: both resets are `volatileReset`, which gives the table (`volatileReset_table`). -/
theorem resetGivesResetTable : Obligations.ResetGivesResetTable := by
  rintro s i (rfl | rfl)
  · exact ⟨volatileReset s, rfl, volatileReset_table s, rfl, rfl, rfl, rfl, rfl⟩
  · exact ⟨volatileReset s, rfl, volatileReset_table s, rfl, rfl, rfl, rfl, rfl⟩

/-- Settles O21: DO_RESET leaves a `ResetInPowerFault`, and no tick without an input change ends it. -/
theorem resetDuringPowerFaultLeavesLaserOn : Obligations.ResetDuringPowerFaultLeavesLaserOn := by
  intro s ticks hstart hready hpending hseen hreported hrail hlines hdoor hin hraw
  have hquiet : ResetInPowerFault (rearmed s) :=
    ⟨hstart, hready, hrail, hin, hlines, hdoor, hseen, hreported, rfl, rfl⟩
  obtain ⟨t, ht, hend, hcfg⟩ := hquiet.run ticks hraw
  have hlaser : laserEn t = true := by simp [laserEn, hend.flags]
  have hlatches : t.latchQ = List.replicate s.cfg.nLatch true := hend.armed.trans (by rw [hcfg]; rfl)
  exact ⟨t, (execAll_doReset_cons hpending _).trans ht, hend.reported, hend.flags, hlaser, hlatches⟩

end Sys2Proof.Proofs
end
